-- ==== Sys2Proof/Word.lean ====
section
/-! DEFINITION. The word types of the block (R8, R72): bytes, 16-bit instruction words, and the fields of an opcode.
Everything is unsigned; no rule sign-extends. -/

namespace Sys2Proof

/-- `u8`: a register, a memory byte, the immediate NN. -/
abbrev Byte := BitVec 8

/-- `u16`: an instruction word (R70). -/
abbrev Word := BitVec 16

/-- A 4-bit field of an opcode (R71). -/
abbrev Nibble := BitVec 4

/-- A field X or Y of an opcode: it names one of sixteen registers (R71). -/
abbrev Reg := Fin 16

/-- The 12-bit address immediate NNN (R72). -/
abbrev Addr12 := BitVec 12

end Sys2Proof
end

