-- ==== Sys2Proof/Config.lean ====
section
/-! DEFINITION. The parameters of R6 as configuration fields (R7: "a model built to this spec must treat every parameter in
rule R6 as a configuration field"): `Params` holds every one of them, but PROG_MAX, which R6 computes from two others, and
RNG, which is the opaque `randomByte`. The default VALUES stand in Machine/Parameters.lean and are used by
`Machine.State.reset` alone (entries 3, 4, 5). -/

namespace Sys2Proof.Config

/-- `DRAW_BCD_ADDR_MODE` (R6, R55): how DXYN and FX33 bring an address into memory. -/
inductive AddrMode where
  | modulo
  | clamp
  deriving DecidableEq, Repr

/-- `VF_ALIAS_ORDER` (R6, R131): the order of the flag write and the result write of 8XY4, 8XY5 and 8XY7. -/
inductive VfAliasOrder where
  | flagLast
  | resultLast
  | flagFirstReread
  deriving DecidableEq, Repr, Inhabited

/-- `LOADSTORE_I_MODE` (R6, R164, R165): whether FX55 and FX65 move I past the block. -/
inductive LoadStoreIMode where
  | unchanged
  | addXPlus1
  deriving DecidableEq, Repr

/-- The parameters of R6 as configuration fields (R7): no definition inlines a default of one. They are plain data held
beside the state (entry 4), so that a statement about every state is a statement about every value of them. -/
structure Params where
  /-- `MEM_SIZE`: addresses 0 to `memSize - 1` (R50; default 4096). -/
  memSize : Nat
  /-- `PROG_BASE`: where a program is loaded and where PC starts (R252, R24; default 512). -/
  progBase : Nat
  /-- `FONT_BASE` (R30, D3; default 0). -/
  fontBase : Nat
  /-- `FONT`: 16 glyphs of 5 bytes (R30, D3). -/
  font : List Byte
  /-- `NREGS`: general registers of 8 bits (R20; default 16). -/
  numRegs : Nat
  /-- `I_WIDTH`: bits of I (R23; default 16). -/
  iWidth : Nat
  /-- `PC_WIDTH`: bits of PC and of a stack entry (R24, R25, D11; default 16). -/
  pcWidth : Nat
  /-- `STACK_CAP`: entries of the call stack (R25; default 48). -/
  stackCap : Nat
  /-- `DISP_W`: columns (R180; default 64). -/
  dispW : Nat
  /-- `DISP_H`: rows (R180; default 32). -/
  dispH : Nat
  /-- `NKEYS`: logical keys (R28; default 16). -/
  numKeys : Nat
  /-- `BATCH`: instructions a tick executes at most (R93; default 10). -/
  batch : Nat
  /-- `SOUND_QUIRK`: what a write of 1 to the sound timer stores (R202; default 3). -/
  soundQuirk : Byte
  /-- `DRAW_BCD_ADDR_MODE` (R55, D9). -/
  addrMode : AddrMode
  /-- `VF_ALIAS_ORDER` (R131, D21), OPEN. -/
  vfAliasOrder : VfAliasOrder
  /-- `LOGIC_VF_RESET` (R135 to R137, D13). -/
  logicVfReset : Bool
  /-- `LOADSTORE_I_MODE` (R164, R165, D14). -/
  loadStoreI : LoadStoreIMode
  deriving DecidableEq, Repr

/-- `PROG_MAX = MEM_SIZE - PROG_BASE`: the longest program (R6). -/
def Params.progMax (p : Params) : Nat := p.memSize - p.progBase

/-- The value of the OPEN parameter `VF_ALIAS_ORDER` (R6: "a model must take it as an argument"). No body: nothing can
be proved of it (entry 3). -/
opaque vfAliasOrder : VfAliasOrder

/-- The free byte of CXNN (R143: "`r <- draw Byte`", "The draw has no law"), one for each draw made. No body: nothing
can be proved of it (entry 5). -/
opaque randomByte : Nat → Byte

/-- The bytes of one glyph, a part of `FONT` (R6: "16 glyphs x 5 bytes"). -/
def glyphBytes : Nat := 5

/-- The parameters fit one another: a program region inside a memory that PC can run off the end of without wrapping
(R24, R96), a font inside memory (R30), a PC that holds every target of BNNN (R113), an I that holds NNN and every glyph
address (R160, R162), the sixteen registers that X and Y name (R71), keys that a register can number (R209), a display with
pixels, and at least one instruction a tick (R99: "`BATCH >= 1`"). The defaults do (entry 15). -/
def Params.valid (p : Params) : Bool :=
  decide (p.progBase + 2 ≤ p.memSize ∧ p.memSize + 4 ≤ 2 ^ p.pcWidth ∧ 0x10FE < 2 ^ p.pcWidth ∧
    p.font.length = 16 * glyphBytes ∧ p.fontBase + p.font.length ≤ p.memSize ∧
    0xFFF < 2 ^ p.iWidth ∧ p.fontBase + glyphBytes * 255 < 2 ^ p.iWidth ∧
    16 ≤ p.numRegs ∧ p.numKeys ≤ 256 ∧ 0 < p.dispW ∧ 0 < p.dispH ∧ 0 < p.batch)

end Sys2Proof.Config
end

