-- ==== Sys2Proof/Machine/Parameters.lean ====
section
/-! DEFINITION. The default values of the parameters of R6, and nothing else: only `State.reset` takes them. -/

namespace Sys2Proof.Config

/-- `FONT` by default (R30): 16 glyphs of 5 bytes, one line a digit. -/
def font : List Byte :=
  [0xF0, 0x90, 0x90, 0x90, 0xF0] ++
  [0x20, 0x60, 0x20, 0x20, 0x70] ++
  [0xF0, 0x10, 0xF0, 0x80, 0xF0] ++
  [0xF0, 0x10, 0xF0, 0x10, 0xF0] ++
  [0x90, 0x90, 0xF0, 0x10, 0x10] ++
  [0xF0, 0x80, 0xF0, 0x10, 0xF0] ++
  [0xF0, 0x80, 0xF0, 0x90, 0xF0] ++
  [0xF0, 0x10, 0x20, 0x40, 0x40] ++
  [0xF0, 0x90, 0xF0, 0x90, 0xF0] ++
  [0xF0, 0x90, 0xF0, 0x10, 0xF0] ++
  [0xF0, 0x90, 0xF0, 0x90, 0x90] ++
  [0xE0, 0x90, 0xE0, 0x90, 0xE0] ++
  [0xF0, 0x80, 0x80, 0x80, 0xF0] ++
  [0xE0, 0x90, 0x90, 0x90, 0xE0] ++
  [0xF0, 0x80, 0xF0, 0x80, 0xF0] ++
  [0xF0, 0x80, 0xF0, 0x80, 0x80]

/-- The values that R6 gives or decides; `VF_ALIAS_ORDER` has none and stays the opaque constant (entries 3, 4). -/
def defaults : Params where
  memSize := 4096
  progBase := 512
  fontBase := 0
  font := font
  numRegs := 16
  iWidth := 16
  pcWidth := 16
  stackCap := 48
  dispW := 64
  dispH := 32
  numKeys := 16
  batch := 10
  soundQuirk := 3
  addrMode := .modulo
  vfAliasOrder := vfAliasOrder
  logicVfReset := false
  loadStoreI := .unchanged

end Sys2Proof.Config
end

