-- ==== Sys2Proof/Machine/Memory.lean ====
section
/-! DEFINITION. Memory (R30, R50 to R60): a list of (address, byte) cells in one canonical form. An address that is not
listed reads as its reset byte (R38), so the reset memory lists nothing. What the reset bytes are and where memory ends
are parameters (R6, R7), so each operation takes them. -/

namespace Sys2Proof.Machine

/-- The cells of memory that differ from their reset byte, by rising address. -/
abbrev Memory := List Host.Cell

/-- What an address holds after reset (R38): the font at FONT_BASE (R30), 0x00 everywhere else. -/
def resetByte (p : Config.Params) (a : Nat) : Byte :=
  if p.fontBase ≤ a then p.font.getD (a - p.fontBase) 0 else 0

/-- The address exists (R50, R54: "bounds-checked against [0,4096)"). -/
def inBounds (p : Config.Params) (a : Nat) : Bool := decide (a < p.memSize)

/-- `MEM[a]` (R60): the byte last written, else the reset byte. -/
def readCell (p : Config.Params) : Memory → Nat → Byte
  | [], a => resetByte p a
  | (b, x) :: rest, a => if b = a then x else readCell p rest a

/-- A cell in front of cells with higher addresses, unless it holds the reset byte. -/
def consCell (p : Config.Params) (a : Nat) (x : Byte) (rest : Memory) : Memory :=
  if x = resetByte p a then rest else (a, x) :: rest

/-- `MEM[a] <- x` (R11), keeping the canonical form. -/
def writeCell (p : Config.Params) : Memory → Nat → Byte → Memory
  | [], a, x => consCell p a x []
  | (b, y) :: rest, a, x =>
    if a < b then consCell p a x ((b, y) :: rest)
    else if a = b then consCell p a x rest
    else (b, y) :: writeCell p rest a x

/-- One byte after another from address `a` up, each a write of its own (R52). -/
def writeBytes (p : Config.Params) : Memory → Nat → List Byte → Memory
  | m, _, [] => m
  | m, a, x :: xs => writeBytes p (writeCell p m a x) (a + 1) xs

/-- The cells from `low` up are in canonical form: addresses rise strictly, exist, and none holds its reset byte. -/
def wfFrom (p : Config.Params) : Nat → Memory → Bool
  | _, [] => true
  | low, (a, x) :: rest => decide (low ≤ a) && inBounds p a && decide (x ≠ resetByte p a) && wfFrom p (a + 1) rest

/-- Memory is in canonical form. -/
def Memory.wf (m : Memory) (p : Config.Params) : Bool := wfFrom p 0 m

/-- The first address of a block of `count` bytes from `base` that does not exist (R54, R231: "the lowest out-of-range
address"), computed on unbounded integers (R56). -/
def firstOutOfBounds (p : Config.Params) : Nat → Nat → Option Nat
  | _, 0 => none
  | base, count + 1 => if inBounds p base then firstOutOfBounds p (base + 1) count else some base

/-- `Reduce(a)` (R55). -/
def reduce (p : Config.Params) (a : Nat) : Nat :=
  match p.addrMode with
  | .modulo => a % p.memSize
  | .clamp => min a (p.memSize - 1)

end Sys2Proof.Machine
end

