-- ==== Sys2Proof/Machine/State.lean ====
section
/-! DEFINITION. The state of the block (R20 to R38), the kinds of fatal error (R231), and the state after reset (R38, R250).
The last five fields are the model's own: the parameters of R6, the position inside a tick, the host's commands and
answers, and the counter of random draws (entries 1 to 5). -/

namespace Sys2Proof.Machine

/-- The fatal kinds of R231. Each is TAKEN by the meaning that raises it: the block goes to Halted with a fault report, a
next state (R232); no step answers `Host.Outcome.fault`. So the type costs no behaviour and is safe. -/
inductive Fault where
  /-- Code 1: CALL with the stack full (R112). Safe: it is taken, never answered. -/
  | stackOverflow
  /-- Code 2: RET with the stack empty (R110). Safe: it is taken, never answered. -/
  | stackUnderflow
  /-- Code 3: fetch, FX55 or FX65 outside memory (R54). Safe: it is taken, never answered. -/
  | memoryOutOfBounds
  /-- Code 4: EX9E or EXA1 with a key number above 15 (R206, R207). Safe: it is taken, never answered. -/
  | keyIndexOutOfRange
  deriving DecidableEq, Repr

/-- Why a step gives no meaning. -/
inductive Refusal where
  /-- Raised by an arm of `exec` for an instruction that has no meaning yet. No arm of this model raises it. Safe: the run
  stops. -/
  | notModelled (mnemonic : String)
  deriving DecidableEq, Repr

/-- The macro-state (R32). -/
inductive Mode where
  /-- "normal instruction cycling" -/
  | running
  /-- "no instructions execute" -/
  | awaitingKey
  /-- the fatal-error stop -/
  | halted
  deriving DecidableEq, Repr

/-- The fault report (R34, R233). -/
structure FaultReport where
  kind : Fault
  /-- The address the faulting instruction was fetched from. -/
  pc : Nat
  /-- The fetched word; none when the fetch itself failed. -/
  opcode : Option Word
  /-- SP, an address or V[x], as R231 says. -/
  info : Nat
  deriving DecidableEq, Repr

/-- The answer of the load command (R252). -/
inductive LoadAnswer where
  | ok
  | programTooLarge
  | refused
  deriving DecidableEq, Repr

/-- A command of the host (R90). -/
inductive HostCommand where
  | reset
  | load (bytes : List Byte)
  | tick (keys : List Bool)
  deriving DecidableEq, Repr

/-- The one-bit grid, row by row from the top, each row from the left (R29, R180): DISP_H rows of DISP_W pixels. -/
abbrev Frame := List (List Bool)

/-- The whole state of the block. The spec's arithmetic is "on mathematical integers" (R8), and the widths of I and PC are
parameters, so I, PC and the stack entries are numbers that each write keeps inside their width. -/
structure State where
  /-- The NREGS registers, V0 first (R20, R21). -/
  v : List Byte
  /-- I, a number of I_WIDTH bits (R23). -/
  i : Nat
  /-- PC, a number of PC_WIDTH bits (R24). -/
  pc : Nat
  /-- STACK, its STACK_CAP entries from the bottom (R25). -/
  stack : List Nat
  /-- SP, the number of valid entries, 0 to STACK_CAP (R25). -/
  sp : Nat
  /-- DT (R27). -/
  dt : Byte
  /-- ST (R27). -/
  st : Byte
  /-- KEY, its NKEYS keys from key 0 up, true = pressed (R28). -/
  keys : List Bool
  /-- FB (R29). -/
  fb : Frame
  /-- MEM (R30, R50). -/
  mem : Memory
  /-- MODE (R32). -/
  mode : Mode
  /-- WAIT_X (R33). -/
  waitX : Reg
  /-- WAIT_KEY (R33). -/
  waitKey : Option Nat
  /-- FAULT (R34). -/
  fault : Option FaultReport
  /-- UNREC (R35). -/
  unrec : Nat
  /-- LOADED (R35). -/
  loaded : Bool
  /-- The parameters of R6; no step changes them (entry 4). -/
  params : Config.Params
  /-- None between ticks; `some k` inside a tick's batch after `k` executed words (R36, R93; entry 1). -/
  slot : Option Nat
  /-- The commands the host has still to give, the next one first (R90, R101; entry 2). -/
  host : List HostCommand
  /-- What the last load since reset answered (R252; entry 2). -/
  answer : Option LoadAnswer
  /-- How many random bytes have been drawn; it picks the next free byte of CXNN (R143; entry 5). -/
  draws : Nat
  deriving DecidableEq, Repr

/-- The state after reset (R38, R250, R251) under the parameters `p`, with no command pending. -/
def State.resetWith (p : Config.Params) : State where
  v := List.replicate p.numRegs 0
  i := 0
  pc := p.progBase
  stack := List.replicate p.stackCap 0
  sp := 0
  dt := 0
  st := 0
  keys := List.replicate p.numKeys false
  fb := List.replicate p.dispH (List.replicate p.dispW false)
  mem := []
  mode := .running
  waitX := 0
  waitKey := none
  fault := none
  unrec := 0
  loaded := false
  params := p
  slot := none
  host := []
  answer := none
  draws := 0

/-- The state after reset under the parameters' default values (R6). -/
def State.reset : State := State.resetWith Config.defaults

end Sys2Proof.Machine
end

