-- ==== Sys2Proof/Machine/Ops.lean ====
section
/-! DEFINITION. The named operations over the state: one update for each piece of state, the memory primitives of R11, the
stack primitives of R26, the PC advance (R96), the skip (R118), taking a fatal error (R12, R97, R232), the timers (R200)
and the key wait (R208, R209). -/

namespace Sys2Proof.Machine

/-! ### One update for each piece of state -/

/-- The register file (R20). -/
def State.withV (s : State) (v : List Byte) : State := { s with v := v }

/-- `I <- a` (R23). -/
def State.withI (s : State) (a : Nat) : State := { s with i := a }

/-- `PC <- target` (R24). -/
def State.withPc (s : State) (target : Nat) : State := { s with pc := target }

/-- The stack entries and SP (R25). -/
def State.withStack (s : State) (stack : List Nat) (sp : Nat) : State := { s with stack := stack, sp := sp }

/-- `DT <- b` (R27). -/
def State.withDt (s : State) (b : Byte) : State := { s with dt := b }

/-- `ST <- b` (R27). -/
def State.withSt (s : State) (b : Byte) : State := { s with st := b }

/-- `KEY <- keys` (R28). -/
def State.withKeys (s : State) (keys : List Bool) : State := { s with keys := keys }

/-- The framebuffer (R29). -/
def State.withFb (s : State) (fb : Frame) : State := { s with fb := fb }

/-- The memory (R30). -/
def State.withMem (s : State) (m : Memory) : State := { s with mem := m }

/-- `MODE <- mode` (R32). -/
def State.withMode (s : State) (mode : Mode) : State := { s with mode := mode }

/-- The wait latch (R33). -/
def State.withWait (s : State) (x : Reg) (k : Option Nat) : State := { s with waitX := x, waitKey := k }

/-- `FAULT <- report` (R34). -/
def State.withFault (s : State) (report : Option FaultReport) : State := { s with fault := report }

/-- `UNREC <- n` (R35). -/
def State.withUnrec (s : State) (n : Nat) : State := { s with unrec := n }

/-- `LOADED <- b` (R35). -/
def State.withLoaded (s : State) (b : Bool) : State := { s with loaded := b }

/-- The parameters of R6. -/
def State.withParams (s : State) (p : Config.Params) : State := { s with params := p }

/-- The position inside a tick (entry 1). -/
def State.withSlot (s : State) (k : Option Nat) : State := { s with slot := k }

/-- The commands still to come (entry 2). -/
def State.withHost (s : State) (cs : List HostCommand) : State := { s with host := cs }

/-- What the last load answered (entry 2). -/
def State.withAnswer (s : State) (a : Option LoadAnswer) : State := { s with answer := a }

/-- The count of random draws (entry 5). -/
def State.withDraws (s : State) (n : Nat) : State := { s with draws := n }

/-! ### The register file (R10, R20) -/

/-- A table held as a list, with entry `k` set; entries that the list does not reach are `fill` (entry 14). -/
def setAt {α : Type} (fill : α) : List α → Nat → α → List α
  | [], 0, a => [a]
  | [], k + 1, a => fill :: setAt fill [] k a
  | _ :: xs, 0, a => a :: xs
  | x :: xs, k + 1, a => x :: setAt fill xs k a

/-- `V[r]` (R10). -/
def State.reg (s : State) (r : Nat) : Byte := s.v.getD r 0

/-- `V[r] <- b` (R10). -/
def State.setReg (s : State) (r : Nat) (b : Byte) : State := s.withV (setAt 0 s.v r b)

/-! ### Memory (R11, R53 to R55) -/

/-- `MEM[a]`, the byte itself (R60). -/
def State.byteAt (s : State) (a : Nat) : Byte := readCell s.params s.mem a

/-- `MemRead(a, 1)` (R11): none where it raises MemoryOutOfBounds. -/
def State.memRead (s : State) (a : Nat) : Option Byte := if inBounds s.params a then some (s.byteAt a) else none

/-- `MEM[a] <- x` for an address that has been checked or reduced (R11, R54, R55). -/
def State.writeByte (s : State) (a : Nat) (x : Byte) : State := s.withMem (writeCell s.params s.mem a x)

/-- One byte after another from `a` up (R52). -/
def State.writeBlock (s : State) (a : Nat) (xs : List Byte) : State := s.withMem (writeBytes s.params s.mem a xs)

/-! ### PC (R96, R118) -/

/-- `PC <- (PC + 2) mod 65536` (R95, R96, R118), on the PC_WIDTH bits of PC. -/
def State.advance (s : State) : State := s.withPc ((s.pc + 2) % 2 ^ s.params.pcWidth)

/-- `if c: Skip()` (R118), after the advance. -/
def State.skipWhen (s : State) (c : Bool) : State := if c then s.advance else s

/-! ### Taking a fatal error (R12, R97, R232, R233) -/

/-- `raise Fatal(kind, info)` in the step whose PC is still `pc0`: nothing of the step is committed, FAULT is written and
MODE is Halted. -/
def State.fatal (s : State) (kind : Fault) (opcode : Option Word) (info : Nat) : State :=
  (s.withFault (some { kind := kind, pc := s.pc, opcode := opcode, info := info })).withMode .halted

/-- The numeric code of a kind (R231). -/
def Fault.code : Fault → Nat
  | .stackOverflow => 1
  | .stackUnderflow => 2
  | .memoryOutOfBounds => 3
  | .keyIndexOutOfRange => 4

/-! ### The call stack (R26) -/

/-- `STACK[k]` (R10, R25). -/
def State.entry (s : State) (k : Nat) : Nat := s.stack.getD k 0

/-- `Push(a)` (R26): none where it raises StackOverflow; the check comes before the write. -/
def State.push (s : State) (a : Nat) : Option State :=
  if s.sp < s.params.stackCap then some (s.withStack (setAt 0 s.stack s.sp a) (s.sp + 1)) else none

/-- `Pop()` (R26): the address and the state after; none where it raises StackUnderflow. The entry keeps its value. -/
def State.pop (s : State) : Option (Nat × State) :=
  match s.sp with
  | 0 => none
  | k + 1 => some (s.entry k, s.withStack s.stack k)

/-! ### The Timer Unit (R200) -/

/-- One decrement, floored at 0 (R200). -/
def countDown (b : Byte) : Byte := if b = 0 then 0 else b - 1

/-- `TimerTick()` (R200). -/
def State.timerTick (s : State) : State := (s.withDt (countDown s.dt)).withSt (countDown s.st)

/-! ### The Input Latch (R205 to R209) -/

/-- `KEY[k]` (R10). -/
def State.key (s : State) (k : Nat) : Bool := s.keys.getD k false

/-- "the least k with KEY[k] true" (R209). -/
def State.leastKeyDown (s : State) : Option Nat := (List.range s.params.numKeys).find? s.key

/-- `KEY[k]` for the key number in a register (R206): none where it raises KeyIndexOutOfRange. -/
def State.keyDown (s : State) (k : Byte) : Option Bool :=
  if k.toNat < s.params.numKeys then some (s.key k.toNat) else none

/-- FX0A arms the wait (R208). -/
def State.armWait (s : State) (x : Reg) : State := (s.withWait x none).withMode .awaitingKey

/-- `WaitCheck()` (R209). -/
def State.waitCheck (s : State) : State :=
  match s.waitKey with
  | none =>
    match s.leastKeyDown with
    | none => s
    | some k => s.withWait s.waitX (some k)
  | some k =>
    if s.key k then s
    else ((s.setReg s.waitX (BitVec.ofNat 8 k)).withWait s.waitX none).withMode .running

end Sys2Proof.Machine
end

