-- ==== Sys2Proof/Machine/Operands.lean ====
section
/-! DEFINITION. Operand forms: the implicit registers (R21, R37) and the I-indirect addresses, reduced or checked (R55, R166).
An immediate is its field read as a number (R72), a register operand the number of its field (R71). -/

namespace Sys2Proof.Machine

/-- VF, register 15 (R21). -/
def regF : Nat := 15

/-- V0 (R37: BNNN reads it implicitly). -/
def reg0 : Nat := 0

/-- `I + k` on unbounded integers (R55, R56). -/
def State.indexed (s : State) (k : Nat) : Nat := s.i + k

/-- `Reduce(I + k)` (R55, R166): the address of a byte of DXYN or FX33. -/
def State.reduced (s : State) (k : Nat) : Nat := reduce s.params (s.indexed k)

/-- V0 to Vx, x + 1 bytes (R164). -/
def State.lowRegs (s : State) (x : Reg) : List Byte := (List.range (x.val + 1)).map s.reg

/-- `for i in 0..x: V[i] <- MEM[I + i]` (R165), on the register file. -/
def State.loadedRegs (s : State) (x : Reg) : List Byte :=
  (List.range (x.val + 1)).foldl (fun v k => setAt 0 v k (s.byteAt (s.indexed k))) s.v

/-- The optional post-modification of I by FX55 and FX65 (R164, R165). -/
def State.stepI (s : State) (x : Reg) : State :=
  match s.params.loadStoreI with
  | .unchanged => s
  | .addXPlus1 => s.withI ((s.i + x.val + 1) % 2 ^ s.params.iWidth)

/-- The sprite bytes of DXYN: `MEM[Reduce(I + j)]` for j in 0..n-1 (R183). -/
def State.spriteBytes (s : State) (n : Nat) : List Byte := (List.range n).map fun j => s.byteAt (s.reduced j)

end Sys2Proof.Machine
end

