-- ==== Sys2Proof/Machine/Flags.lean ====
section
/-! DEFINITION. Every flag the spec computes: carry, no-borrow, the shifted-out bits, and the order in which the flag and
the result are written (R131, R135 to R142). -/

namespace Sys2Proof.Machine

/-- `bool2u8(b)` (R8). -/
def bool2u8 (b : Bool) : Byte := if b then 1 else 0

/-- `bool2u8(a + b >= 256)` (R138). -/
def carry (a b : Byte) : Byte := bool2u8 (decide (256 ≤ a.toNat + b.toNat))

/-- `bool2u8(a >= b)`: no borrow in `a - b` (R139). -/
def noBorrow (a b : Byte) : Byte := bool2u8 (decide (b.toNat ≤ a.toNat))

/-- Bit 0, shifted out by a right shift (R140). -/
def lsb (a : Byte) : Byte := a &&& 1

/-- Bit 7, shifted out by a left shift (R142). -/
def msb (a : Byte) : Byte := (a >>> 7) &&& 1

/-- 8XY4, 8XY5 and 8XY7: `Flagged(x, y, f, g)`, a result into V[x] and a flag into VF, for each `VF_ALIAS_ORDER`
(R131). -/
def State.arith (s : State) (f g : Byte → Byte → Byte) (x y : Nat) : State :=
  match s.params.vfAliasOrder with
  | .flagLast => (s.setReg x (f (s.reg x) (s.reg y))).setReg regF (g (s.reg x) (s.reg y))
  | .resultLast => (s.setReg regF (g (s.reg x) (s.reg y))).setReg x (f (s.reg x) (s.reg y))
  | .flagFirstReread =>
    let t := s.setReg regF (g (s.reg x) (s.reg y))
    t.setReg x (f (t.reg x) (t.reg y))

/-- 8XY1, 8XY2 and 8XY3: a result into V[x], then `if LOGIC_VF_RESET: V[15] <- 0` (R135 to R137). -/
def State.logic (s : State) (f : Byte → Byte → Byte) (x y : Nat) : State :=
  let t := s.setReg x (f (s.reg x) (s.reg y))
  if s.params.logicVfReset then t.setReg regF 0 else t

/-- The three ordered steps of the shifts (R140, R142): copy Y, write the flag, shift; each reads the registers as the
step before left them. -/
def State.shift (s : State) (out move : Byte → Byte) (x y : Nat) : State :=
  let t := s.setReg x (s.reg y)
  let u := t.setReg regF (out (t.reg x))
  u.setReg x (move (u.reg x))

end Sys2Proof.Machine
end

