-- ==== Sys2Proof/Machine/Alu.lean ====
section
/-! DEFINITION. The register and ALU instructions (R130 to R143). -/

namespace Sys2Proof.Machine

open Host

/-- LD Vx, nn (R132). -/
def execLdImm (x : Reg) (nn : Byte) (s : State) : Outcome State Fault Refusal :=
  .next (s.advance.setReg x nn)

/-- ADD Vx, nn (R133): no flag, even when the sum wraps. -/
def execAddImm (x : Reg) (nn : Byte) (s : State) : Outcome State Fault Refusal :=
  .next (s.advance.setReg x (s.reg x + nn))

/-- LD Vx, Vy (R134). -/
def execLdReg (x y : Reg) (s : State) : Outcome State Fault Refusal :=
  .next (s.advance.setReg x (s.reg y))

/-- OR Vx, Vy (R135). -/
def execOrReg (x y : Reg) (s : State) : Outcome State Fault Refusal :=
  .next (s.advance.logic (fun a b => a ||| b) x y)

/-- AND Vx, Vy (R136). -/
def execAndReg (x y : Reg) (s : State) : Outcome State Fault Refusal :=
  .next (s.advance.logic (fun a b => a &&& b) x y)

/-- XOR Vx, Vy (R137). -/
def execXorReg (x y : Reg) (s : State) : Outcome State Fault Refusal :=
  .next (s.advance.logic (fun a b => a ^^^ b) x y)

/-- ADD Vx, Vy (R138). -/
def execAddReg (x y : Reg) (s : State) : Outcome State Fault Refusal :=
  .next (s.advance.arith (fun a b => a + b) carry x y)

/-- SUB Vx, Vy (R139): `VX -= VY`, VF = no borrow. -/
def execSubReg (x y : Reg) (s : State) : Outcome State Fault Refusal :=
  .next (s.advance.arith (fun a b => a - b) noBorrow x y)

/-- SHR Vx, Vy (R140). -/
def execShr (x y : Reg) (s : State) : Outcome State Fault Refusal :=
  .next (s.advance.shift lsb (fun a => a >>> 1) x y)

/-- SUBN Vx, Vy (R141): `VX = VY - VX`, VF = no borrow. -/
def execSubnReg (x y : Reg) (s : State) : Outcome State Fault Refusal :=
  .next (s.advance.arith (fun a b => b - a) (fun a b => noBorrow b a) x y)

/-- SHL Vx, Vy (R142). -/
def execShl (x y : Reg) (s : State) : Outcome State Fault Refusal :=
  .next (s.advance.shift msb (fun a => a <<< 1) x y)

/-- The random byte and mask of CXNN, for a given draw (R143). -/
def State.maskedDraw (s : State) (x : Nat) (nn draw : Byte) : State :=
  (s.setReg x (draw &&& nn)).withDraws (s.draws + 1)

/-- RND Vx, nn (R143): the draw is the next free byte (entry 5). -/
def execRnd (x : Reg) (nn : Byte) (s : State) : Outcome State Fault Refusal :=
  .next (s.advance.maskedDraw x nn (Config.randomByte s.draws))

end Sys2Proof.Machine
end

