-- ==== Sys2Proof/Syntax.lean ====
section
/-! DEFINITION. The 34 instructions (R74), one constructor for each row of spec/opcode_table.json, in the table's order.
Fields an instruction ignores (the X of group 0, the N of 5XYN and 9XYN: R73, R75) are kept, so that no bit of a word
is lost. The UNRECOGNIZED words (R76) are no row of the table and no constructor: the decoder rejects them by name. -/

namespace Sys2Proof

/-- The instruction set. `x`, `y` are register indices, `nn` a byte, `nnn` a 12-bit address, `n` a nibble (R72). -/
inductive Instr where
  /-- `0XE0` CLS (R181); X is ignored. -/
  | cls (x : Reg)
  /-- `0XEE` RET (R110); X is ignored. -/
  | ret (x : Reg)
  /-- `1NNN` JP nnn (R111). -/
  | jp (nnn : Addr12)
  /-- `2NNN` CALL nnn (R112). -/
  | call (nnn : Addr12)
  /-- `3XNN` SE Vx, nn (R114). -/
  | seImm (x : Reg) (nn : Byte)
  /-- `4XNN` SNE Vx, nn (R115). -/
  | sneImm (x : Reg) (nn : Byte)
  /-- `5XYN` SE Vx, Vy (R116); N is ignored. -/
  | seReg (x y : Reg) (n : Nibble)
  /-- `6XNN` LD Vx, nn (R132). -/
  | ldImm (x : Reg) (nn : Byte)
  /-- `7XNN` ADD Vx, nn (R133). -/
  | addImm (x : Reg) (nn : Byte)
  /-- `8XY0` LD Vx, Vy (R134). -/
  | ldReg (x y : Reg)
  /-- `8XY1` OR Vx, Vy (R135). -/
  | orReg (x y : Reg)
  /-- `8XY2` AND Vx, Vy (R136). -/
  | andReg (x y : Reg)
  /-- `8XY3` XOR Vx, Vy (R137). -/
  | xorReg (x y : Reg)
  /-- `8XY4` ADD Vx, Vy (R138). -/
  | addReg (x y : Reg)
  /-- `8XY5` SUB Vx, Vy (R139). -/
  | subReg (x y : Reg)
  /-- `8XY6` SHR Vx, Vy (R140). -/
  | shr (x y : Reg)
  /-- `8XY7` SUBN Vx, Vy (R141). -/
  | subnReg (x y : Reg)
  /-- `8XYE` SHL Vx, Vy (R142). -/
  | shl (x y : Reg)
  /-- `9XYN` SNE Vx, Vy (R117); N is ignored. -/
  | sneReg (x y : Reg) (n : Nibble)
  /-- `ANNN` LD I, nnn (R160). -/
  | ldI (nnn : Addr12)
  /-- `BNNN` JP V0, nnn (R113). -/
  | jpV0 (nnn : Addr12)
  /-- `CXNN` RND Vx, nn (R143). -/
  | rnd (x : Reg) (nn : Byte)
  /-- `DXYN` DRW Vx, Vy, n (R183); `n` is the row count, a number 0 to 15. -/
  | drw (x y : Reg) (n : Nat)
  /-- `EX9E` SKP Vx (R206). -/
  | skp (x : Reg)
  /-- `EXA1` SKNP Vx (R207). -/
  | sknp (x : Reg)
  /-- `FX07` LD Vx, DT (R201). -/
  | ldVxDt (x : Reg)
  /-- `FX0A` LD Vx, K (R208). -/
  | ldVxK (x : Reg)
  /-- `FX15` LD DT, Vx (R203). -/
  | ldDtVx (x : Reg)
  /-- `FX18` LD ST, Vx (R202). -/
  | ldStVx (x : Reg)
  /-- `FX1E` ADD I, Vx (R161). -/
  | addIVx (x : Reg)
  /-- `FX29` LD F, Vx (R162). -/
  | ldFVx (x : Reg)
  /-- `FX33` LD B, Vx (R163). -/
  | ldBVx (x : Reg)
  /-- `FX55` LD [I], Vx (R164). -/
  | ldMemVx (x : Reg)
  /-- `FX65` LD Vx, [I] (R165). -/
  | ldVxMem (x : Reg)
  deriving DecidableEq, Repr

end Sys2Proof
end

