-- ==== Sys2Proof/WellFormed.lean ====
section
/-! DEFINITION. Which instruction terms the encoding admits (R71, R72). A register index, NN, NNN and an ignored nibble
fit their fields by type; the one operand held as a plain number is the row count N of DXYN, "a 4-bit unsigned count
(0..15)". -/

namespace Sys2Proof

/-- The row count of a sprite fits the field N (R72, R180: "0 to 15 rows high (the N field)"). -/
def spriteRowsFit (n : Nat) : Bool := decide (n < 16)

/-- The instruction has an encoding (R71, R72). -/
def Instr.wellFormed : Instr → Bool
  | .cls _ => true
  | .ret _ => true
  | .jp _ => true
  | .call _ => true
  | .seImm _ _ => true
  | .sneImm _ _ => true
  | .seReg _ _ _ => true
  | .ldImm _ _ => true
  | .addImm _ _ => true
  | .ldReg _ _ => true
  | .orReg _ _ => true
  | .andReg _ _ => true
  | .xorReg _ _ => true
  | .addReg _ _ => true
  | .subReg _ _ => true
  | .shr _ _ => true
  | .subnReg _ _ => true
  | .shl _ _ => true
  | .sneReg _ _ _ => true
  | .ldI _ => true
  | .jpV0 _ => true
  | .rnd _ _ => true
  | .drw _ _ n => spriteRowsFit n
  | .skp _ => true
  | .sknp _ => true
  | .ldVxDt _ => true
  | .ldVxK _ => true
  | .ldDtVx _ => true
  | .ldStVx _ => true
  | .addIVx _ => true
  | .ldFVx _ => true
  | .ldBVx _ => true
  | .ldMemVx _ => true
  | .ldVxMem _ => true

end Sys2Proof
end

