-- ==== Sys2Proof/Machine/ControlFlow.lean ====
section
/-! DEFINITION. Control transfer (R110 to R119). A meaning starts with PC = `pc0`; `advance` is the `PC + 2` that every rule
presupposes (R96). -/

namespace Sys2Proof.Machine

open Host

/-- RET (R110): `PC <- Pop()`; X is ignored. -/
def execRet (x : Reg) (s : State) : Outcome State Fault Refusal :=
  match s.advance.pop with
  | none => .next (s.fatal .stackUnderflow (some (encode (.ret x))) s.sp)
  | some (target, t) => .next (t.withPc target)

/-- JP nnn (R111): `PC <- nnn`. -/
def execJp (nnn : Addr12) (s : State) : Outcome State Fault Refusal :=
  .next (s.advance.withPc nnn.toNat)

/-- CALL nnn (R112): `Push(PC); PC <- nnn`, the pushed PC being the advanced one. -/
def execCall (nnn : Addr12) (s : State) : Outcome State Fault Refusal :=
  match s.advance.push s.advance.pc with
  | none => .next (s.fatal .stackOverflow (some (encode (.call nnn))) s.sp)
  | some t => .next (t.withPc nnn.toNat)

/-- JP V0, nnn (R113): `PC <- nnn + V0`, not reduced. -/
def execJpV0 (nnn : Addr12) (s : State) : Outcome State Fault Refusal :=
  .next (s.advance.withPc (nnn.toNat + (s.reg reg0).toNat))

/-- SE Vx, nn (R114). -/
def execSeImm (x : Reg) (nn : Byte) (s : State) : Outcome State Fault Refusal :=
  .next (s.advance.skipWhen (s.reg x == nn))

/-- SNE Vx, nn (R115). -/
def execSneImm (x : Reg) (nn : Byte) (s : State) : Outcome State Fault Refusal :=
  .next (s.advance.skipWhen (s.reg x != nn))

/-- SE Vx, Vy (R116), for every N. -/
def execSeReg (x y : Reg) (_n : Nibble) (s : State) : Outcome State Fault Refusal :=
  .next (s.advance.skipWhen (s.reg x == s.reg y))

/-- SNE Vx, Vy (R117), for every N. -/
def execSneReg (x y : Reg) (_n : Nibble) (s : State) : Outcome State Fault Refusal :=
  .next (s.advance.skipWhen (s.reg x != s.reg y))

end Sys2Proof.Machine
end

