-- ==== Sys2Proof/Machine/Display.lean ====
section
/-! DEFINITION. The framebuffer, the XOR blitter with clipping and collision, CLS and DRW (R180 to R184). -/

namespace Sys2Proof.Machine

open Host

/-- `FB[r][c]` (R10). -/
def pixelAt (fb : Frame) (r c : Nat) : Bool := (fb.getD r []).getD c false

/-- `FB[r][c] <- on` (R10). -/
def setPixel (fb : Frame) (r c : Nat) (on : Bool) : Frame := setAt [] fb r (setAt false (fb.getD r []) c on)

/-- Every pixel off (R181). -/
def blankFrame (p : Config.Params) : Frame := List.replicate p.dispH (List.replicate p.dispW false)

/-- A set source bit at row `r`, column `c` (R182): an on pixel is a hit, the pixel is inverted; outside the grid the bit
is clipped. -/
def invertPixel (p : Config.Params) (acc : Frame × Bool) (r c : Nat) : Frame × Bool :=
  if r < p.dispH ∧ c < p.dispW then (setPixel acc.1 r c (!pixelAt acc.1 r c), acc.2 || pixelAt acc.1 r c) else acc

/-- Bit position `k` of a sprite byte, 0 the leftmost: `(byte >> (7 - k)) & 1` (R180, R182). -/
def spriteBit (b : Byte) (k : Nat) : Bool := b.getLsbD (7 - k)

/-- The columns of one sprite row (R182): the inner loop, over the bit positions given. -/
def blitBits (p : Config.Params) (acc : Frame × Bool) (r c0 : Nat) (b : Byte) : List Nat → Frame × Bool
  | [] => acc
  | k :: ks => blitBits p (if spriteBit b k then invertPixel p acc r (c0 + k) else acc) r c0 b ks

/-- The rows of a sprite (R182): the outer loop; row `r` takes the first byte. -/
def blitRows (p : Config.Params) (acc : Frame × Bool) (r c0 : Nat) : List Byte → Frame × Bool
  | [] => acc
  | b :: bs => blitRows p (blitBits p acc r c0 b [0, 1, 2, 3, 4, 5, 6, 7]) (r + 1) c0 bs

/-- `DrawSprite(row, col, bytes)` (R182): the framebuffer after, and the collision. The start wraps, the advance clips. -/
def drawSprite (p : Config.Params) (fb : Frame) (row col : Byte) (bytes : List Byte) : Frame × Bool :=
  blitRows p (fb, false) (row.toNat % p.dispH) (col.toNat % p.dispW) bytes

/-- CLS (R181); X is ignored, VF is not written. -/
def execCls (_x : Reg) (s : State) : Outcome State Fault Refusal :=
  .next (s.advance.withFb (blankFrame s.params))

/-- DRW Vx, Vy, n (R183): the column from V[x] and the row from V[y], both read before VF is written. -/
def execDrw (x y : Reg) (n : Nat) (s : State) : Outcome State Fault Refusal :=
  let out := drawSprite s.params s.fb (s.reg y) (s.reg x) (s.spriteBytes n)
  .next ((s.advance.withFb out.1).setReg regF (bool2u8 out.2))

end Sys2Proof.Machine
end

