-- ==== Sys2Proof/Machine/IndexMemory.lean ====
section
/-! DEFINITION. The address register, loads and stores (R160 to R165). -/

namespace Sys2Proof.Machine

open Host

/-- LD I, nnn (R160). -/
def execLdI (nnn : Addr12) (s : State) : Outcome State Fault Refusal :=
  .next (s.advance.withI nnn.toNat)

/-- ADD I, Vx (R161): mod 65536, on the I_WIDTH bits of I; VF not written. -/
def execAddIVx (x : Reg) (s : State) : Outcome State Fault Refusal :=
  .next (s.advance.withI ((s.i + (s.reg x).toNat) % 2 ^ s.params.iWidth))

/-- The address of the glyph that a byte names (R162): `FONT_BASE + 5 * b`, the byte not masked. -/
def State.glyphAddr (s : State) (b : Byte) : Nat := s.params.fontBase + Config.glyphBytes * b.toNat

/-- LD F, Vx (R162). -/
def execLdFVx (x : Reg) (s : State) : Outcome State Fault Refusal :=
  .next (s.advance.withI (s.glyphAddr (s.reg x)))

/-- `v div 100` (R163). -/
def hundreds (b : Byte) : Byte := BitVec.ofNat 8 (b.toNat / 100)

/-- `(v div 10) mod 10` (R163). -/
def tens (b : Byte) : Byte := BitVec.ofNat 8 (b.toNat / 10 % 10)

/-- `v mod 10` (R163). -/
def units (b : Byte) : Byte := BitVec.ofNat 8 (b.toNat % 10)

/-- The three writes of R163, in their order, each at its reduced address. -/
def State.storeBcd (s : State) (b : Byte) : State :=
  ((s.writeByte (s.reduced 0) (hundreds b)).writeByte (s.reduced 1) (tens b)).writeByte (s.reduced 2) (units b)

/-- LD B, Vx (R163). -/
def execLdBVx (x : Reg) (s : State) : Outcome State Fault Refusal :=
  .next (s.advance.storeBcd (s.reg x))

/-- The check of R164 and R165, made before any byte moves: the lowest address of the block that does not exist. -/
def State.blockFault (s : State) (x : Reg) : Option Nat := firstOutOfBounds s.params s.i (x.val + 1)

/-- LD [I], Vx (R164). -/
def execLdMemVx (x : Reg) (s : State) : Outcome State Fault Refusal :=
  match s.blockFault x with
  | some a => .next (s.fatal .memoryOutOfBounds (some (encode (.ldMemVx x))) a)
  | none => .next ((s.advance.writeBlock s.i (s.lowRegs x)).stepI x)

/-- LD Vx, [I] (R165). -/
def execLdVxMem (x : Reg) (s : State) : Outcome State Fault Refusal :=
  match s.blockFault x with
  | some a => .next (s.fatal .memoryOutOfBounds (some (encode (.ldVxMem x))) a)
  | none => .next ((s.advance.withV (s.loadedRegs x)).stepI x)

end Sys2Proof.Machine
end

