-- ==== Sys2Proof/Machine/TimersInput.lean ====
section
/-! DEFINITION. The timer and key instructions (R201 to R203, R206 to R208). -/

namespace Sys2Proof.Machine

open Host

/-- SKP Vx (R206). -/
def execSkp (x : Reg) (s : State) : Outcome State Fault Refusal :=
  match s.keyDown (s.reg x) with
  | none => .next (s.fatal .keyIndexOutOfRange (some (encode (.skp x))) (s.reg x).toNat)
  | some down => .next (s.advance.skipWhen down)

/-- SKNP Vx (R207). -/
def execSknp (x : Reg) (s : State) : Outcome State Fault Refusal :=
  match s.keyDown (s.reg x) with
  | none => .next (s.fatal .keyIndexOutOfRange (some (encode (.sknp x))) (s.reg x).toNat)
  | some down => .next (s.advance.skipWhen (!down))

/-- LD Vx, DT (R201). -/
def execLdVxDt (x : Reg) (s : State) : Outcome State Fault Refusal :=
  .next (s.advance.setReg x s.dt)

/-- LD Vx, K (R208): arms the wait; V[x] is written when the wait resolves (R209). -/
def execLdVxK (x : Reg) (s : State) : Outcome State Fault Refusal :=
  .next (s.advance.armWait x)

/-- LD DT, Vx (R203). -/
def execLdDtVx (x : Reg) (s : State) : Outcome State Fault Refusal :=
  .next (s.advance.withDt (s.reg x))

/-- What a write of `b` stores in the sound timer (R202): SOUND_QUIRK for 1, else `b`. -/
def State.soundValue (s : State) (b : Byte) : Byte := if b = 1 then s.params.soundQuirk else b

/-- LD ST, Vx (R202), with the quirk. -/
def execLdStVx (x : Reg) (s : State) : Outcome State Fault Refusal :=
  .next (s.advance.withSt (s.soundValue (s.reg x)))

end Sys2Proof.Machine
end

