-- ==== Sys2Proof/Machine/Cycle.lean ====
section
/-! DEFINITION. The instruction cycle (R95 to R98): fetch, decode, execute. -/

namespace Sys2Proof.Machine

open Host

/-- The outcome with `f` applied to its next state. -/
def mapNext (f : State → State) : Outcome State Fault Refusal → Outcome State Fault Refusal
  | .next t => .next (f t)
  | .fault e => .fault e
  | .refused r => .refused r

/-- One outcome after another: `f` runs from the next state. -/
def andThen (o : Outcome State Fault Refusal) (f : State → Outcome State Fault Refusal) : Outcome State Fault Refusal :=
  match o with
  | .next t => f t
  | .fault e => .fault e
  | .refused r => .refused r

/-- `Fetch(PC)` (R53): two one-byte reads, high byte first; the address that does not exist where it raises. -/
def State.fetch (s : State) : Except Nat Word :=
  match s.memRead s.pc with
  | none => .error s.pc
  | some hi =>
    match s.memRead (s.pc + 1) with
    | none => .error (s.pc + 1)
    | some lo => .ok (joinBytes hi lo)

/-- An UNRECOGNIZED word (R76, R98, R237): the event is counted, PC is past the word, nothing else happens. -/
def State.countUnrecognized (s : State) : State := s.advance.withUnrec (s.unrec + 1)

/-- `Step()` of R95. A fetch outside memory is fatal, with no opcode to report (R97, R233). -/
def instruction (s : State) : Outcome State Fault Refusal :=
  match s.fetch with
  | .error a => .next (s.fatal .memoryOutOfBounds none a)
  | .ok op =>
    match decode op with
    | .ok i => exec i s
    | .error _ => .next s.countUnrecognized

/-- The word placed where the next instruction is fetched, the machine inside a tick's batch with no word executed yet. A PC
that no word can be fetched from (R53) gives way to the program base (entry 7). -/
def State.placeWord (s : State) (op : Word) : State :=
  let a := if s.pc + 1 < s.params.memSize then s.pc else s.params.progBase
  (((s.writeBlock a (wordBytes op)).withPc a).withMode .running).withSlot (some 0)

end Sys2Proof.Machine
end

