-- ==== Sys2Proof/Machine/Command.lean ====
section
/-! DEFINITION. The host's three commands (R90): reset (R250), load (R252) and tick (R91). `tick` is the whole tick, the
block's own step; the functions before it are its phases, which `step` takes one at a time (entry 1). -/

namespace Sys2Proof.Machine

open Host

/-! ### reset and load -/

/-- `reset` (R250): every piece of the block's state at its reset value. The parameters, the host's remaining commands and
the counter of draws are not the block's state and stay (entries 2, 4, 5). -/
def State.resetBlock (s : State) : State :=
  ((State.resetWith s.params).withHost s.host).withDraws s.draws

/-- What `load(bytes)` answers (R252). -/
def State.loadAnswer (s : State) (bytes : List Byte) : LoadAnswer :=
  if s.mode = .halted ∨ s.loaded = true then .refused
  else if s.params.progMax < bytes.length then .programTooLarge
  else .ok

/-- `load(bytes)` (R252): a load that is not Ok changes no state of the block. -/
def State.load (s : State) (bytes : List Byte) : State :=
  match s.loadAnswer bytes with
  | .ok => ((s.writeBlock s.params.progBase bytes).withLoaded true).withAnswer (some .ok)
  | .programTooLarge => s.withAnswer (some .programTooLarge)
  | .refused => s.withAnswer (some .refused)

/-! ### The tick (R91) -/

/-- `if MODE != Halted: TimerTick()` (R91, R94). -/
def State.timerPhase (s : State) : State :=
  match s.mode with
  | .running => s.timerTick
  | .awaitingKey => s.timerTick
  | .halted => s

/-- `RunBatch()` (R93): at most `n` more instructions, while Running. -/
def runBatch : Nat → State → Outcome State Fault Refusal
  | 0, s => .next s
  | n + 1, s =>
    match s.mode with
    | .running => andThen (instruction s) (runBatch n)
    | .awaitingKey => .next s
    | .halted => .next s

/-- `Tick(keys)` (R91): Halted ignores it; else the key refresh, the batch or the wait-check, the timers. -/
def tick (keys : List Bool) (s : State) : Outcome State Fault Refusal :=
  match s.mode with
  | .running => mapNext State.timerPhase (runBatch s.params.batch (s.withKeys keys))
  | .awaitingKey => .next (s.withKeys keys).waitCheck.timerPhase
  | .halted => .next s

/-- The first phase of a tick: all of it for a Halted or an AwaitingKey block, the key refresh for a Running one, whose
batch then starts (R91, R93). -/
def State.beginTick (s : State) (keys : List Bool) : State :=
  match s.mode with
  | .running => (s.withKeys keys).withSlot (some 0)
  | .awaitingKey => (s.withKeys keys).waitCheck.timerPhase
  | .halted => s

/-- The last phase of a Running tick: the timers, and the tick is over (R91, R94). -/
def State.endTick (s : State) : State := (s.withSlot none).timerPhase

/-- One slot of the batch (R93): an instruction while Running and fewer than BATCH have run, else the end of the tick. -/
def batchSlot (k : Nat) (s : State) : Outcome State Fault Refusal :=
  match s.mode with
  | .running => if k < s.params.batch then mapNext (fun t => t.withSlot (some (k + 1))) (instruction s) else .next s.endTick
  | .awaitingKey => .next s.endTick
  | .halted => .next s.endTick

/-- A command of the host, taken between ticks (R90). -/
def State.command (s : State) : HostCommand → State
  | .reset => s.resetBlock
  | .load bytes => s.load bytes
  | .tick keys => s.beginTick keys

end Sys2Proof.Machine
end

