-- ==== Sys2Proof/Machine/Ports.lean ====
section
/-! DEFINITION. The outputs of R90, "pure functions of the state". -/

namespace Sys2Proof.Machine

/-- `pixel` (R90, R186): `FB[r][c]`. -/
def State.pixel (s : State) (r c : Nat) : Bool := pixelAt s.fb r c

/-- `sound_active = (ST != 0)` (R27, R204). -/
def State.soundActive (s : State) : Bool := s.st != 0

/-- `status` (R90): MODE, FAULT, UNREC. -/
structure Status where
  mode : Mode
  fault : Option FaultReport
  unrec : Nat
  deriving DecidableEq, Repr

/-- The status port (R90, R233, R237). -/
def State.status (s : State) : Status := { mode := s.mode, fault := s.fault, unrec := s.unrec }

end Sys2Proof.Machine
end

