-- ==== Sys2Proof/Machine/Step.lean ====
section
/-! DEFINITION. One step of the model: one slot of the tick in progress, or the host's next command (entries 1, 2). With no
tick in progress and no command pending the block does nothing (R100: "host stops calling tick()"). -/

namespace Sys2Proof.Machine

/-- One step. -/
def step (s : State) : Host.Outcome State Fault Refusal :=
  match s.slot with
  | some k => batchSlot k s
  | none =>
    match s.host with
    | [] => .next s
    | c :: cs => .next ((s.withHost cs).command c)

/-- The state with the host's word (numbered as the opcode table numbers it) placed where the next step fetches (entry 7). -/
def State.withFetchWord (s : State) (nbits w : Nat) : State := s.placeWord (tableWord nbits w)

end Sys2Proof.Machine
end

