-- ==== Sys2Proof/Safety.lean ====
section
/-! DEFINITION. What counts as a safe run, and the invariant that every step keeps. -/

namespace Sys2Proof.Machine

/-- The block has not stopped on a fatal error (R232: Halted is "a fault stop, never a normal end", R101). -/
def State.Safe (s : State) : Prop := s.mode ≠ .halted

/-- The framebuffer has DISP_H rows of DISP_W pixels (R29, R180). -/
def Frame.shaped (fb : Frame) (p : Config.Params) : Bool :=
  fb.length == p.dispH && fb.all fun row => row.length == p.dispW

/-- What holds at reset and after every step. -/
structure State.Inv (s : State) : Prop where
  /-- The parameters fit one another (R6). -/
  params_ok : s.params.valid = true
  /-- Memory is in canonical form and holds no address outside memory (R50). -/
  mem_wf : s.mem.wf s.params = true
  /-- The framebuffer has its size (R29). -/
  fb_shaped : s.fb.shaped s.params = true
  /-- There are NREGS registers (R20). -/
  regs_len : s.v.length = s.params.numRegs
  /-- There are NKEYS keys (R28). -/
  keys_len : s.keys.length = s.params.numKeys
  /-- The host's ticks carry NKEYS keys each (R90). -/
  host_ok : ∀ keys, .tick keys ∈ s.host → keys.length = s.params.numKeys
  /-- I has I_WIDTH bits (R23). -/
  i_lt : s.i < 2 ^ s.params.iWidth
  /-- The call stack has STACK_CAP entries (R25). -/
  stack_len : s.stack.length = s.params.stackCap
  /-- SP is at most STACK_CAP (R25: "a stack pointer `SP` in 0..48"). -/
  sp_le : s.sp ≤ s.params.stackCap
  /-- The fault report is there exactly while Halted (R34: "set once, when the block enters Halted"). -/
  halted_iff : s.mode = .halted ↔ s.fault.isSome = true
  /-- A key is latched only while AwaitingKey, and it is one of the NKEYS (R33). -/
  latched : ∀ k, s.waitKey = some k → s.mode = .awaitingKey ∧ k < s.params.numKeys
  /-- At most BATCH words run in a tick (R93). -/
  slot_le : ∀ k, s.slot = some k → k ≤ s.params.batch
  /-- Every stack entry is the address after a fetched word (R112, R53), so at most MEM_SIZE. -/
  stack_le : ∀ k, s.entry k ≤ s.params.memSize
  /-- No run carries PC past the highest target of BNNN (R113: "at most 0x10FE") or past a skip off the end of memory
  (R118), so PC never wraps (R96). -/
  pc_le : s.pc ≤ max 0x10FE (s.params.memSize + 2)

/-! ### The vocabulary of the statements -/

/-- The "Encoding" line of an instruction's rule: the mask and the match of its word (R74). -/
def encodedIn (i : Instr) (mask fixed : Word) : Prop := encode i &&& mask = fixed

/-- The registers an instruction may write (R37, rows V[x] and VF): its destination X, VF where it is a flag. -/
def writesReg (p : Config.Params) (r : Nat) : Instr → Bool
  | .ldImm x _ => r == x.val
  | .addImm x _ => r == x.val
  | .ldReg x _ => r == x.val
  | .orReg x _ => r == x.val || (p.logicVfReset && r == regF)
  | .andReg x _ => r == x.val || (p.logicVfReset && r == regF)
  | .xorReg x _ => r == x.val || (p.logicVfReset && r == regF)
  | .addReg x _ => r == x.val || r == regF
  | .subReg x _ => r == x.val || r == regF
  | .shr x _ => r == x.val || r == regF
  | .subnReg x _ => r == x.val || r == regF
  | .shl x _ => r == x.val || r == regF
  | .rnd x _ => r == x.val
  | .drw _ _ _ => r == regF
  | .ldVxDt x => r == x.val
  | .ldVxMem x => decide (r ≤ x.val)
  | .cls _ => false
  | .ret _ => false
  | .jp _ => false
  | .call _ => false
  | .seImm _ _ => false
  | .sneImm _ _ => false
  | .seReg _ _ _ => false
  | .sneReg _ _ _ => false
  | .ldI _ => false
  | .jpV0 _ => false
  | .skp _ => false
  | .sknp _ => false
  | .ldVxK _ => false
  | .ldDtVx _ => false
  | .ldStVx _ => false
  | .addIVx _ => false
  | .ldFVx _ => false
  | .ldBVx _ => false
  | .ldMemVx _ => false

/-- The addresses an instruction may store to in state `s` (R37, row MEM): the three reduced addresses of FX33 and the
block of FX55. -/
def storesTo (s : State) (a : Nat) : Instr → Prop
  | .ldBVx _ => a = s.reduced 0 ∨ a = s.reduced 1 ∨ a = s.reduced 2
  | .ldMemVx x => s.indexed 0 ≤ a ∧ a ≤ s.indexed x.val
  | _ => False

/-- The condition under which an instruction is fatal, and what it reports (R231); none for an instruction that "can raise
nothing". -/
def fatalCause (s : State) : Instr → Option (Fault × Nat)
  | .call _ => if s.params.stackCap ≤ s.sp then some (.stackOverflow, s.sp) else none
  | .ret _ => if s.sp = 0 then some (.stackUnderflow, s.sp) else none
  | .ldMemVx x =>
    if s.params.memSize ≤ s.i + x.val then some (.memoryOutOfBounds, max s.i s.params.memSize) else none
  | .ldVxMem x =>
    if s.params.memSize ≤ s.i + x.val then some (.memoryOutOfBounds, max s.i s.params.memSize) else none
  | .skp x => if s.params.numKeys ≤ (s.reg x).toNat then some (.keyIndexOutOfRange, (s.reg x).toNat) else none
  | .sknp x => if s.params.numKeys ≤ (s.reg x).toNat then some (.keyIndexOutOfRange, (s.reg x).toNat) else none
  | _ => none

/-- A set source bit of DXYN falls on the pixel at row `r`, column `c` (R182, R183): the start wraps, the advance does not. -/
def spriteCovers (s : State) (x y n r c : Nat) : Bool :=
  let r0 := (s.reg y).toNat % s.params.dispH
  let c0 := (s.reg x).toNat % s.params.dispW
  decide (r0 ≤ r ∧ r < r0 + n ∧ c0 ≤ c ∧ c < c0 + 8) && (s.byteAt (s.reduced (r - r0))).getLsbD (7 - (c - c0))

/-- The outcome table of R131: what V[x] and VF hold after a flagged instruction with result `f` and flag `g`, for each
`VF_ALIAS_ORDER` and each aliasing of X and Y with VF. -/
def flaggedTable (s t : State) (f g : Byte → Byte → Byte) (x y : Nat) : Prop :=
  let a := s.reg x
  let b := s.reg y
  match s.params.vfAliasOrder with
  | .flagLast => t.reg 15 = g a b ∧ (x ≠ 15 → t.reg x = f a b)
  | .resultLast => t.reg x = f a b ∧ (x ≠ 15 → t.reg 15 = g a b)
  | .flagFirstReread =>
    (x ≠ 15 → t.reg 15 = g a b) ∧
    t.reg x = f (if x = 15 then g a b else a) (if y = 15 then g a b else b)

end Sys2Proof.Machine
end

