-- ==== Sys2Proof/Certificates/Slice0/Obligations.lean ====
section
/-! DEFINITION. The statements for the provers. Each docstring names the rule of spec/ it formalises. An equation
`t = { s with … }` says what the instruction writes AND that every other piece of state is unchanged. The parameters of R6
are data beside the state (entry 4), so a statement about every state is one about every value of them; where a rule writes
a default (4096, 48, 64, 512, 65536, ...), the statement has the parameter (2 ^ I_WIDTH or 2 ^ PC_WIDTH for 65536). A
register number `r` runs over every register there is, X and Y over the sixteen that an instruction can name. -/

open Sys2Proof Sys2Proof.Machine

/-! ### Encoding (R70 to R78) -/

/-- R73, R74: decoding the word of any well-formed instruction gives the instruction back, every operand at every value. -/
def Obligations.DecodeOfEncodeIsTheInstruction : Prop :=
  ∀ i : Instr, i.wellFormed = true → decode (encode i) = .ok i

/-- R73, R74: the other direction: what a word decodes to is well formed and encodes to that very word, so no bit is lost. -/
def Obligations.EncodeOfDecodeIsTheWord : Prop :=
  ∀ (w : Word) (i : Instr), decode w = .ok i → i.wellFormed = true ∧ encode i = w

/-- R74: "a word op is the instruction exactly when op & mask == match". A word decodes exactly when some row of the map
matches it, the instruction is the one of that row, the rows do not overlap, and otherwise the rejection names the word. -/
def Obligations.DecodeFollowsTheOpcodeMap : Prop :=
  ∀ w : Word,
    (∃ i : Instr, decode w = .ok i ∧ (i.rowMask, i.rowMatch) ∈ opcodeRows ∧ w &&& i.rowMask = i.rowMatch ∧
      ∀ r ∈ opcodeRows, w &&& r.1 = r.2 → r = (i.rowMask, i.rowMatch)) ∨
    (decode w = .error (.unrecognized w) ∧ ∀ r ∈ opcodeRows, w &&& r.1 ≠ r.2)

/-- R76: the UNRECOGNIZED words, spelled out group by group on the word as a number. -/
def Obligations.UnrecognizedWordsAreTheSpelledSet : Prop :=
  ∀ w : Word, decode w = .error (.unrecognized w) ↔
    (w.toNat / 4096 = 0 ∧ w.toNat % 256 ∉ [0xE0, 0xEE]) ∨
    (w.toNat / 4096 = 8 ∧ w.toNat % 16 ∈ [8, 9, 0xA, 0xB, 0xC, 0xD, 0xF]) ∨
    (w.toNat / 4096 = 14 ∧ w.toNat % 256 ∉ [0x9E, 0xA1]) ∨
    (w.toNat / 4096 = 15 ∧ w.toNat % 256 ∉ [0x07, 0x0A, 0x15, 0x18, 0x1E, 0x29, 0x33, 0x55, 0x65])

/-- R73, R74: words written out by hand, one of each group with its own layout. -/
def Obligations.HandWrittenWordsDecode : Prop :=
  decode 0x00E0 = .ok (.cls 0) ∧ decode 0x2210 = .ok (.call 0x210) ∧ decode 0x330A = .ok (.seImm 3 0x0A) ∧
  decode 0x512F = .ok (.seReg 1 2 0xF) ∧ decode 0x8436 = .ok (.shr 4 3) ∧ decode 0xA2F0 = .ok (.ldI 0x2F0) ∧
  decode 0xD125 = .ok (.drw 1 2 5) ∧ decode 0xE1A1 = .ok (.sknp 1) ∧ decode 0xFA33 = .ok (.ldBVx 0xA) ∧
  decode 0x0123 = .error (.unrecognized 0x0123)

/-! ### The instruction cycle (R53, R95 to R98) -/

/-- R53, R95: inside a tick's batch, when the two bytes at PC (high byte first) decode to `i`, the step is `exec i` on this
very state; around it the step only counts the slot (R93; that a step is one slot is the model's choice, entry 1). -/
def Obligations.StepRunsTheDecodedInstruction : Prop :=
  ∀ (s : State) (k : Nat) (hi lo : Byte) (i : Instr),
    s.slot = some k → k < s.params.batch → s.mode = .running →
    s.memRead s.pc = some hi → s.memRead (s.pc + 1) = some lo →
    decode (joinBytes hi lo) = .ok i →
    step s = mapNext (fun t => { t with slot := some (k + 1) }) (exec i s)

/-- R98, R76, R237: a word no row matches counts one event, advances PC by 2, and changes nothing else of the block; it
takes one slot of the batch (R93), counted in the model's own field (entry 1). -/
def Obligations.UnrecognizedWordOnlyCounts : Prop :=
  ∀ (s : State) (k : Nat) (hi lo : Byte) (w : Word),
    s.slot = some k → k < s.params.batch → s.mode = .running →
    s.memRead s.pc = some hi → s.memRead (s.pc + 1) = some lo →
    decode (joinBytes hi lo) = .error (.unrecognized w) →
    step s = .next { s with pc := (s.pc + 2) % 2 ^ s.params.pcWidth, unrec := s.unrec + 1, slot := some (k + 1) }

/-- R53, R54, R97, R233: a fetch past the last word of memory (PC > 4094 at the default MEM_SIZE) is fatal: the report has no
opcode and the lowest address that does not exist, PC stays, and nothing else of the block changes; the slot is the
model's own field (entry 1). -/
def Obligations.FetchOutsideMemoryHalts : Prop :=
  ∀ (s : State) (k : Nat),
    s.slot = some k → k < s.params.batch → s.mode = .running → s.params.memSize ≤ s.pc + 1 →
    step s = .next { s with
      mode := .halted
      fault := some { kind := .memoryOutOfBounds, pc := s.pc, opcode := none, info := max s.pc s.params.memSize }
      slot := some (k + 1) }

/-- R97, R233: when the instruction fetched in a step is fatal, the report names its address and its word as fetched, PC
still points at it, and no register, byte, pixel, stack entry or timer has changed; the slot is the model's own field
(entry 1). -/
def Obligations.HaltedStepReportsTheFetchedWord : Prop :=
  ∀ (s t : State) (k : Nat) (hi lo : Byte) (i : Instr),
    s.slot = some k → k < s.params.batch → s.mode = .running →
    s.memRead s.pc = some hi → s.memRead (s.pc + 1) = some lo →
    decode (joinBytes hi lo) = .ok i → step s = .next t → t.mode = .halted →
    ∃ kind info, t = { s with
      mode := .halted
      fault := some { kind := kind, pc := s.pc, opcode := some (joinBytes hi lo), info := info }
      slot := some (k + 1) }

/-! ### Which instructions halt, and when (R231, R235) -/

/-- R230, R231, R235: for every instruction and state, `exec` answers a next state; it is Halted with exactly the kind and
information of the cause table, nothing committed (R97), if the table's condition holds, and keeps FAULT and is not Halted
if it does not. -/
def Obligations.ExecHaltsExactlyByTheCauseTable : Prop :=
  ∀ (i : Instr) (s : State), s.mode = .running →
    ∃ t, exec i s = .next t ∧
      match fatalCause s i with
      | some (kind, info) => t = { s with
          mode := .halted
          fault := some { kind := kind, pc := s.pc, opcode := some (encode i), info := info } }
      | none => t.mode ≠ .halted ∧ t.fault = s.fault

/-! ### Control transfer (R110 to R118) -/

/-- R110, R26: RET with an entry on the stack goes to the top entry and lowers SP; the entries stay as they are. -/
def Obligations.RetPopsThePc : Prop :=
  ∀ (x : Reg) (s : State) (k : Nat), s.sp = k + 1 →
    exec (.ret x) s = .next { s with pc := s.entry k, sp := k }

/-- R112, R26: CALL with room on the stack stores the address after itself at STACK[SP], raises SP and goes to nnn; every
other entry stays. -/
def Obligations.CallPushesTheReturnAddress : Prop :=
  ∀ (nnn : Addr12) (s : State), s.sp < s.params.stackCap →
    ∃ t, exec (.call nnn) s = .next t ∧ t.pc = nnn.toNat ∧ t.sp = s.sp + 1 ∧
      (∀ k, t.entry k = if k = s.sp then (s.pc + 2) % 2 ^ s.params.pcWidth else s.entry k) ∧
      t = { s with pc := t.pc, sp := t.sp, stack := t.stack }

/-- R110: "RET after CALL returns to the instruction after the CALL", with SP as it was before both. -/
def Obligations.RetAfterCallReturns : Prop :=
  ∀ (nnn : Addr12) (x : Reg) (s t : State), s.sp < s.params.stackCap → exec (.call nnn) s = .next t →
    ∃ u, exec (.ret x) t = .next u ∧ u.pc = (s.pc + 2) % 2 ^ s.params.pcWidth ∧ u.sp = s.sp

/-- R111, R113: JP goes to nnn, JP V0 to nnn + V0 (not reduced, whatever X is); nothing else changes. -/
def Obligations.JumpsSetThePc : Prop :=
  ∀ (nnn : Addr12) (s : State),
    encodedIn (.jp nnn) 0xF000 0x1000 ∧ encodedIn (.jpV0 nnn) 0xF000 0xB000 ∧
    (∃ t, exec (.jp nnn) s = .next t ∧ t.pc = nnn.toNat ∧ t = { s with pc := t.pc }) ∧
    (∃ t, exec (.jpV0 nnn) s = .next t ∧ t.pc = nnn.toNat + (s.reg 0).toNat ∧ t = { s with pc := t.pc })

/-- R114 to R118: the four compares skip one word (PC + 4) when the condition holds and go on (PC + 2) when not; N is
ignored; nothing else changes. -/
def Obligations.ComparesSkipOneWord : Prop :=
  ∀ (x y : Reg) (nn : Byte) (n : Nibble) (s : State),
    encodedIn (.seImm x nn) 0xF000 0x3000 ∧ encodedIn (.sneImm x nn) 0xF000 0x4000 ∧
    encodedIn (.seReg x y n) 0xF000 0x5000 ∧ encodedIn (.sneReg x y n) 0xF000 0x9000 ∧
    exec (.seImm x nn) s =
      .next { s with pc := (if s.reg x = nn then s.pc + 4 else s.pc + 2) % 2 ^ s.params.pcWidth } ∧
    exec (.sneImm x nn) s =
      .next { s with pc := (if s.reg x ≠ nn then s.pc + 4 else s.pc + 2) % 2 ^ s.params.pcWidth } ∧
    exec (.seReg x y n) s =
      .next { s with pc := (if s.reg x = s.reg y then s.pc + 4 else s.pc + 2) % 2 ^ s.params.pcWidth } ∧
    exec (.sneReg x y n) s =
      .next { s with pc := (if s.reg x ≠ s.reg y then s.pc + 4 else s.pc + 2) % 2 ^ s.params.pcWidth }

/-- R206, R207: with the number of a key that exists (up to 15 by default), SKP skips when that key is down and SKNP when it is up; nothing else changes. -/
def Obligations.KeySkipsReadTheLatch : Prop :=
  ∀ (x : Reg) (s : State), (s.reg x).toNat < s.params.numKeys →
    exec (.skp x) s =
      .next { s with pc := (if s.key (s.reg x).toNat = true then s.pc + 4 else s.pc + 2) % 2 ^ s.params.pcWidth } ∧
    exec (.sknp x) s =
      .next { s with pc := (if s.key (s.reg x).toNat = true then s.pc + 2 else s.pc + 4) % 2 ^ s.params.pcWidth }

/-! ### Registers and ALU (R130 to R143) -/

/-- R132: LD Vx, nn. -/
def Obligations.LoadImmediateSetsTheRegister : Prop :=
  ∀ (x : Reg) (nn : Byte) (s : State),
    encodedIn (.ldImm x nn) 0xF000 0x6000 ∧
    ∃ t, exec (.ldImm x nn) s = .next t ∧ (∀ r, t.reg r = if r = x.val then nn else s.reg r) ∧
      t = { s with pc := (s.pc + 2) % 2 ^ s.params.pcWidth, v := t.v }

/-- R133: ADD Vx, nn adds mod 256 and reports nothing: VF changes only where it is X. -/
def Obligations.AddImmediateWrapsWithoutFlag : Prop :=
  ∀ (x : Reg) (nn : Byte) (s : State),
    encodedIn (.addImm x nn) 0xF000 0x7000 ∧
    ∃ t, exec (.addImm x nn) s = .next t ∧ (t.reg x).toNat = ((s.reg x).toNat + nn.toNat) % 256 ∧
      (∀ r, r ≠ x.val → t.reg r = s.reg r) ∧ t = { s with pc := (s.pc + 2) % 2 ^ s.params.pcWidth, v := t.v }

/-- R134: LD Vx, Vy. -/
def Obligations.CopyRegisterCopies : Prop :=
  ∀ (x y : Reg) (s : State),
    encodedIn (.ldReg x y) 0xF00F 0x8000 ∧
    ∃ t, exec (.ldReg x y) s = .next t ∧ (∀ r, t.reg r = if r = x.val then s.reg y else s.reg r) ∧
      t = { s with pc := (s.pc + 2) % 2 ^ s.params.pcWidth, v := t.v }

/-- R135 to R137: OR, AND, XOR, bit by bit; with LOGIC_VF_RESET, VF is 0 after (also where it is X), without it VF is no
flag. -/
def Obligations.LogicOpsWorkBitwise : Prop :=
  ∀ (i : Instr) (op : Bool → Bool → Bool) (fixed : Word) (x y : Reg) (s : State),
    (i = .orReg x y ∧ op = or ∧ fixed = 0x8001) ∨ (i = .andReg x y ∧ op = and ∧ fixed = 0x8002) ∨
      (i = .xorReg x y ∧ op = xor ∧ fixed = 0x8003) →
    encodedIn i 0xF00F fixed ∧
    ∃ t, exec i s = .next t ∧
      (s.params.logicVfReset = true → t.reg 15 = 0) ∧
      (∀ k, (s.params.logicVfReset = false ∨ x.val ≠ 15) →
        (t.reg x).getLsbD k = op ((s.reg x).getLsbD k) ((s.reg y).getLsbD k)) ∧
      (∀ r, r ≠ x.val → (s.params.logicVfReset = false ∨ r ≠ 15) → t.reg r = s.reg r) ∧
      t = { s with pc := (s.pc + 2) % 2 ^ s.params.pcWidth, v := t.v }

/-- R138 with R131: ADD Vx, Vy: the sum mod 256, VF = 1 iff a + b >= 256, in the order of `VF_ALIAS_ORDER`. -/
def Obligations.AddSetsCarry : Prop :=
  ∀ (x y : Reg) (s : State),
    encodedIn (.addReg x y) 0xF00F 0x8004 ∧
    ∃ t, exec (.addReg x y) s = .next t ∧
      flaggedTable s t (fun a b => BitVec.ofNat 8 ((a.toNat + b.toNat) % 256))
        (fun a b => if a.toNat + b.toNat ≥ 256 then 1 else 0) x y ∧
      (∀ r, r ≠ x.val → r ≠ 15 → t.reg r = s.reg r) ∧ t = { s with pc := (s.pc + 2) % 2 ^ s.params.pcWidth, v := t.v }

/-- R139 with R131: SUB Vx, Vy: a - b mod 256, VF = 1 iff a >= b. -/
def Obligations.SubSetsNoBorrow : Prop :=
  ∀ (x y : Reg) (s : State),
    encodedIn (.subReg x y) 0xF00F 0x8005 ∧
    ∃ t, exec (.subReg x y) s = .next t ∧
      flaggedTable s t (fun a b => BitVec.ofNat 8 ((256 + a.toNat - b.toNat) % 256))
        (fun a b => if a.toNat ≥ b.toNat then 1 else 0) x y ∧
      (∀ r, r ≠ x.val → r ≠ 15 → t.reg r = s.reg r) ∧ t = { s with pc := (s.pc + 2) % 2 ^ s.params.pcWidth, v := t.v }

/-- R141 with R131: SUBN Vx, Vy: b - a mod 256, VF = 1 iff b >= a. -/
def Obligations.SubnSetsNoBorrow : Prop :=
  ∀ (x y : Reg) (s : State),
    encodedIn (.subnReg x y) 0xF00F 0x8007 ∧
    ∃ t, exec (.subnReg x y) s = .next t ∧
      flaggedTable s t (fun a b => BitVec.ofNat 8 ((256 + b.toNat - a.toNat) % 256))
        (fun a b => if b.toNat ≥ a.toNat then 1 else 0) x y ∧
      (∀ r, r ≠ x.val → r ≠ 15 → t.reg r = s.reg r) ∧ t = { s with pc := (s.pc + 2) % 2 ^ s.params.pcWidth, v := t.v }

/-- R140: SHR Vx, Vy shifts the value of Vy; VF is its bit 0, but where X is VF the last step shifts the flag out and VF is
0. -/
def Obligations.ShiftRightGoesThroughVy : Prop :=
  ∀ (x y : Reg) (s : State),
    encodedIn (.shr x y) 0xF00F 0x8006 ∧
    ∃ t, exec (.shr x y) s = .next t ∧
      (x.val ≠ 15 → (t.reg x).toNat = (s.reg y).toNat / 2 ∧ (t.reg 15).toNat = (s.reg y).toNat % 2) ∧
      (x.val = 15 → t.reg 15 = 0) ∧
      (∀ r, r ≠ x.val → r ≠ 15 → t.reg r = s.reg r) ∧ t = { s with pc := (s.pc + 2) % 2 ^ s.params.pcWidth, v := t.v }

/-- R142: SHL Vx, Vy shifts the value of Vy; VF is its bit 7, but where X is VF it is shifted too and VF is 2 or 0. -/
def Obligations.ShiftLeftGoesThroughVy : Prop :=
  ∀ (x y : Reg) (s : State),
    encodedIn (.shl x y) 0xF00F 0x800E ∧
    ∃ t, exec (.shl x y) s = .next t ∧
      (x.val ≠ 15 → (t.reg x).toNat = (s.reg y).toNat * 2 % 256 ∧ (t.reg 15).toNat = (s.reg y).toNat / 128) ∧
      (x.val = 15 → (t.reg 15).toNat = if 128 ≤ (s.reg y).toNat then 2 else 0) ∧
      (∀ r, r ≠ x.val → r ≠ 15 → t.reg r = s.reg r) ∧ t = { s with pc := (s.pc + 2) % 2 ^ s.params.pcWidth, v := t.v }

/-- R143: RND Vx, nn stores some byte masked by nn, so no bit outside nn is set in V[x]; nothing else of the block changes.
The count of draws, which the step raises by one, is the model's choice (entry 5). -/
def Obligations.RandomIsMasked : Prop :=
  ∀ (x : Reg) (nn : Byte) (s : State),
    encodedIn (.rnd x nn) 0xF000 0xC000 ∧
    ∃ (t : State) (draw : Byte), exec (.rnd x nn) s = .next t ∧ t.reg x = draw &&& nn ∧
      (∀ r, r ≠ x.val → t.reg r = s.reg r) ∧ t = { s with pc := (s.pc + 2) % 2 ^ s.params.pcWidth, v := t.v, draws := s.draws + 1 }

/-! ### The address register and memory (R54, R55, R160 to R165) -/

/-- R160, R161, R162: LD I, ADD I (mod 65536, which is 2 ^ I_WIDTH: that reading of R161 under other widths is the model's,
entry 6) and LD F (FONT_BASE + 5 bytes a glyph, neither masked nor reduced); VF and all else unchanged. -/
def Obligations.IndexInstructionsSetI : Prop :=
  ∀ (nnn : Addr12) (x : Reg) (s : State),
    encodedIn (.ldI nnn) 0xF000 0xA000 ∧ encodedIn (.addIVx x) 0xF0FF 0xF01E ∧ encodedIn (.ldFVx x) 0xF0FF 0xF029 ∧
    (∃ t, exec (.ldI nnn) s = .next t ∧ t.i = nnn.toNat ∧ t = { s with pc := (s.pc + 2) % 2 ^ s.params.pcWidth, i := t.i }) ∧
    (∃ t, exec (.addIVx x) s = .next t ∧ t.i = (s.i + (s.reg x).toNat) % 2 ^ s.params.iWidth ∧
      t = { s with pc := (s.pc + 2) % 2 ^ s.params.pcWidth, i := t.i }) ∧
    (∃ t, exec (.ldFVx x) s = .next t ∧ t.i = s.params.fontBase + 5 * (s.reg x).toNat ∧
      t = { s with pc := (s.pc + 2) % 2 ^ s.params.pcWidth, i := t.i })

/-- R163 with R55: LD B stores the hundreds, tens and units digits, in that order, at the reduced addresses of I, I + 1 and
I + 2 (a later digit wins where two addresses fall together); every other byte and all else is unchanged. -/
def Obligations.BcdStoresThreeDigits : Prop :=
  ∀ (x : Reg) (s : State), s.mem.wf s.params = true → 0 < s.params.memSize →
    (∀ k, s.reduced k = match s.params.addrMode with
      | .modulo => (s.i + k) % s.params.memSize
      | .clamp => min (s.i + k) (s.params.memSize - 1)) ∧
    encodedIn (.ldBVx x) 0xF0FF 0xF033 ∧
    ∃ t, exec (.ldBVx x) s = .next t ∧
      (∀ a, (t.byteAt a).toNat =
        if a = s.reduced 2 then (s.reg x).toNat % 10
        else if a = s.reduced 1 then (s.reg x).toNat / 10 % 10
        else if a = s.reduced 0 then (s.reg x).toNat / 100
        else (s.byteAt a).toNat) ∧
      t = { s with pc := (s.pc + 2) % 2 ^ s.params.pcWidth, mem := t.mem }

/-- R164: LD [I], Vx with I + x inside memory stores V0 to Vx at I to I + x and no other byte; I moves only under
AddXPlus1. -/
def Obligations.StoreBlockStoresTheRegisters : Prop :=
  ∀ (x : Reg) (s : State), s.mem.wf s.params = true → s.i + x.val < s.params.memSize →
    ∃ t, exec (.ldMemVx x) s = .next t ∧
      (∀ r, r ≤ x.val → t.byteAt (s.i + r) = s.reg r) ∧
      (∀ a, a < s.i ∨ s.i + x.val < a → t.byteAt a = s.byteAt a) ∧
      t.i = (match s.params.loadStoreI with
        | .unchanged => s.i
        | .addXPlus1 => (s.i + x.val + 1) % 2 ^ s.params.iWidth) ∧
      t = { s with pc := (s.pc + 2) % 2 ^ s.params.pcWidth, mem := t.mem, i := t.i }

/-- R165: LD Vx, [I] with I + x inside memory loads V0 to Vx from I to I + x and no other register; I moves only under
AddXPlus1. -/
def Obligations.LoadBlockLoadsTheRegisters : Prop :=
  ∀ (x : Reg) (s : State), s.i + x.val < s.params.memSize →
    ∃ t, exec (.ldVxMem x) s = .next t ∧
      (∀ r, t.reg r = if r ≤ x.val then s.byteAt (s.i + r) else s.reg r) ∧
      t.i = (match s.params.loadStoreI with
        | .unchanged => s.i
        | .addXPlus1 => (s.i + x.val + 1) % 2 ^ s.params.iWidth) ∧
      t = { s with pc := (s.pc + 2) % 2 ^ s.params.pcWidth, v := t.v, i := t.i }

/-- R164, R165: what a block store wrote, the block load from the same I reads back, V0 to Vx, under either mode of I once
I is set back. -/
def Obligations.LoadBlockReadsBackTheStore : Prop :=
  ∀ (x : Reg) (s t : State) (v : List Byte), s.mem.wf s.params = true → s.i + x.val < s.params.memSize →
    exec (.ldMemVx x) s = .next t →
    ∃ u, exec (.ldVxMem x) { t with i := s.i, v := v } = .next u ∧
      ∀ r, u.reg r = if r ≤ x.val then s.reg r else v.getD r 0

/-- A property of the model's own form of memory, which is its choice (entry 10: DESIGN CHOICE); no rule of spec/ states it.
Two memories in canonical form that read alike at every address are the same data, so that comparing two states compares
what R60's reads can see. -/
def Obligations.CanonicalMemoriesThatReadAlikeAreEqual : Prop :=
  ∀ (p : Config.Params) (m m' : Memory), m.wf p = true → m'.wf p = true →
    (∀ a, readCell p m a = readCell p m' a) → m = m'

/-! ### Display (R181 to R185) -/

/-- R181: CLS turns every pixel off, X ignored, VF and all else unchanged. -/
def Obligations.ClearTurnsEveryPixelOff : Prop :=
  ∀ (x : Reg) (s : State),
    encodedIn (.cls x) 0xF0FF 0x00E0 ∧
    ∃ t, exec (.cls x) s = .next t ∧ (∀ r c, pixelAt t.fb r c = false) ∧ t = { s with pc := (s.pc + 2) % 2 ^ s.params.pcWidth, fb := t.fb }

/-- R182, R183, R184: DRW inverts exactly the pixels that a set source bit covers, the start wrapped and the rest clipped;
VF is 1 iff one of them was on, else 0; nothing else changes. -/
def Obligations.DrawInvertsTheCoveredPixels : Prop :=
  ∀ (x y : Reg) (n : Nat) (s : State),
    encodedIn (.drw x y n) 0xF000 0xD000 ∧
    ∃ t, exec (.drw x y n) s = .next t ∧
      (∀ r c, r < s.params.dispH → c < s.params.dispW →
        pixelAt t.fb r c = xor (pixelAt s.fb r c) (spriteCovers s x y n r c)) ∧
      (t.reg 15 = 0 ∨ t.reg 15 = 1) ∧
      (t.reg 15 = 1 ↔ ∃ r c, r < s.params.dispH ∧ c < s.params.dispW ∧ spriteCovers s x y n r c = true ∧
        pixelAt s.fb r c = true) ∧
      (∀ r, r ≠ 15 → t.reg r = s.reg r) ∧ t = { s with pc := (s.pc + 2) % 2 ^ s.params.pcWidth, v := t.v, fb := t.fb }

/-- R185's first sentence, R182, R184: two identical DRW in a row (same V[x], same V[y]) leave FB as it was, and the first
does not collide on a blank display. When the second collides is read from R182 and R184, against R185's second sentence
(entry 8: DEDUCED): exactly when a pixel it covers was off before the first, and so on a blank display exactly when the
sprite has a set bit that is not clipped. -/
def Obligations.DrawingTwiceRestoresTheDisplay : Prop :=
  ∀ (x y : Reg) (n : Nat) (s t : State), s.fb.shaped s.params = true → exec (.drw x y n) s = .next t →
    t.reg x = s.reg x → t.reg y = s.reg y →
    (∃ u, exec (.drw x y n) t = .next u ∧ u.fb = s.fb ∧
      (u.reg 15 = 1 ↔ ∃ r c, r < s.params.dispH ∧ c < s.params.dispW ∧ spriteCovers s x y n r c = true ∧
        pixelAt s.fb r c = false)) ∧
    ((∀ r c, pixelAt s.fb r c = false) → t.reg 15 = 0)

/-- R185's own sentence "The second call reports collision exactly when its sprite has at least one set bit that is not
clipped", for every display. It contradicts R182 and R184 where every covered pixel is on before the first draw (entry 8):
expected to fail. -/
def Obligations.SecondDrawCollidesWheneverTheSpriteIsVisible : Prop :=
  ∀ (x y : Reg) (n : Nat) (s t u : State), exec (.drw x y n) s = .next t → t.reg x = s.reg x → t.reg y = s.reg y →
    exec (.drw x y n) t = .next u →
    (u.reg 15 = 1 ↔ ∃ r c, r < s.params.dispH ∧ c < s.params.dispW ∧ spriteCovers s x y n r c = true)

/-! ### Timers and keys (R200 to R210) -/

/-- R201, R203, R202: LD Vx, DT reads DT; LD DT takes Vx; LD ST takes Vx but SOUND_QUIRK (3 by default) for 1; where
SOUND_QUIRK is not 1 itself, no instruction makes ST 1 (only a decrement does). -/
def Obligations.TimerInstructionsMoveTheTimers : Prop :=
  ∀ (x : Reg) (s : State),
    encodedIn (.ldVxDt x) 0xF0FF 0xF007 ∧ encodedIn (.ldDtVx x) 0xF0FF 0xF015 ∧ encodedIn (.ldStVx x) 0xF0FF 0xF018 ∧
    (∃ t, exec (.ldVxDt x) s = .next t ∧ (∀ r, t.reg r = if r = x.val then s.dt else s.reg r) ∧
      t = { s with pc := (s.pc + 2) % 2 ^ s.params.pcWidth, v := t.v }) ∧
    exec (.ldDtVx x) s = .next { s with pc := (s.pc + 2) % 2 ^ s.params.pcWidth, dt := s.reg x } ∧
    (∃ t, exec (.ldStVx x) s = .next t ∧ (s.reg x = 1 → t.st = s.params.soundQuirk) ∧
      (s.reg x ≠ 1 → t.st = s.reg x) ∧ t = { s with pc := (s.pc + 2) % 2 ^ s.params.pcWidth, st := t.st }) ∧
    (s.params.soundQuirk ≠ 1 → ∀ (i : Instr) (t : State), exec i s = .next t → t.st = 1 → s.st = 1)

/-- R208: LD Vx, K arms the wait for register x with no key latched, and writes no register now. -/
def Obligations.WaitInstructionArmsTheLatch : Prop :=
  ∀ (x : Reg) (s : State),
    exec (.ldVxK x) s = .next { s with pc := (s.pc + 2) % 2 ^ s.params.pcWidth, mode := .awaitingKey, waitX := x, waitKey := none }

/-- R91, R205, R209, R200: a tick of an AwaitingKey block refreshes KEY, makes one wait-check and counts both timers down; it
executes no instruction. That such a tick is one step, and that its command comes from the host list, are the model's
choices (entries 1, 2). Phase 1 latches the least key that is down; phase 2 writes the latched key to V[WAIT_X] and goes to
Running once that key is up (k mod 256 is k for every key number a register can hold). -/
def Obligations.WaitingTickMakesOneCheck : Prop :=
  ∀ (s : State) (keys : List Bool) (rest : List HostCommand),
    s.slot = none → s.host = .tick keys :: rest → s.mode = .awaitingKey →
    ∃ t, step s = .next t ∧ t.keys = keys ∧ t.host = rest ∧ t.slot = none ∧
      t.dt.toNat = s.dt.toNat - 1 ∧ t.st.toNat = s.st.toNat - 1 ∧
      (match s.waitKey with
        | none =>
          t.v = s.v ∧ t.mode = .awaitingKey ∧
          ((∃ k, t.waitKey = some k ∧ k < s.params.numKeys ∧ t.key k = true ∧ ∀ j, j < k → t.key j = false) ∨
            (t.waitKey = none ∧ ∀ j, j < s.params.numKeys → t.key j = false))
        | some k =>
          (t.key k = true → t.v = s.v ∧ t.mode = .awaitingKey ∧ t.waitKey = some k) ∧
          (t.key k = false → t.mode = .running ∧ t.waitKey = none ∧
            (t.reg s.waitX).toNat = k % 256 ∧ ∀ r, r ≠ s.waitX.val → t.reg r = s.reg r)) ∧
      t = { s with keys := t.keys, host := t.host, dt := t.dt, st := t.st, v := t.v, mode := t.mode, waitKey := t.waitKey }

/-! ### The tick (R91 to R99) -/

/-- R91, R93, R205: a tick of a Running block refreshes KEY first and starts its batch at count zero. The slot and the
host list are the model's own fields (entries 1, 2). -/
def Obligations.RunningTickRefreshesKeysFirst : Prop :=
  ∀ (s : State) (keys : List Bool) (rest : List HostCommand),
    s.slot = none → s.host = .tick keys :: rest → s.mode = .running →
    step s = .next { s with keys := keys, host := rest, slot := some 0 }

/-- R93, R94, R200: the batch ends when BATCH words have run or the block is no longer Running; the timers count down once,
floored at 0, unless the block is Halted. The slot is the model's own field (entry 1). -/
def Obligations.BatchEndCountsTheTimersDown : Prop :=
  ∀ (s : State) (k : Nat), s.slot = some k → (s.mode = .running → s.params.batch ≤ k) →
    ∃ t, step s = .next t ∧
      (s.mode ≠ .halted → t.dt.toNat = s.dt.toNat - 1 ∧ t.st.toNat = s.st.toNat - 1) ∧
      (s.mode = .halted → t.dt = s.dt ∧ t.st = s.st) ∧
      t = { s with slot := none, dt := t.dt, st := t.st }

/-- R94, R234, R252: a tick or a load of a Halted block changes no state of the block; the load is refused. The command
comes from the host list and the answer goes to a field of the model's own (entry 2). -/
def Obligations.HaltedBlockIgnoresTicksAndLoads : Prop :=
  ∀ (s : State) (rest : List HostCommand), s.slot = none → s.mode = .halted →
    (∀ keys, s.host = .tick keys :: rest → step s = .next { s with host := rest }) ∧
    (∀ bytes, s.host = .load bytes :: rest → step s = .next { s with host := rest, answer := some .refused })

/-- R91, R90: a whole tick is what its steps do. From between two ticks, at most BATCH + 2 steps carry the block to the
state that `tick keys` answers, the command consumed. The steps, and the host list, are the model's choices (entries 1,
2). -/
def Obligations.TickIsWhatItsStepsDo : Prop :=
  ∀ (s : State) (keys : List Bool) (rest : List HostCommand),
    s.slot = none → s.host = .tick keys :: rest →
    ∃ (n : Nat) (t : State), n ≤ s.params.batch + 2 ∧ 1 ≤ n ∧ t.host = rest ∧ t.slot = none ∧
      tick keys { s with host := rest } = .next t ∧ core.run n s = .next t

/-! ### Reset and load (R38, R250 to R253) -/

/-- R38: the reset values, with the font of R30 in the first 80 bytes. -/
def Obligations.ResetHoldsTheStatedValues : Prop :=
  State.reset.pc = 0x200 ∧ (∀ r, State.reset.reg r = 0) ∧ State.reset.i = 0 ∧ State.reset.sp = 0 ∧
  (∀ k, State.reset.entry k = 0) ∧ State.reset.dt = 0 ∧ State.reset.st = 0 ∧
  (∀ k, State.reset.key k = false) ∧ (∀ r c, pixelAt State.reset.fb r c = false) ∧
  (List.range 80).map State.reset.byteAt =
    ([0xF0, 0x90, 0x90, 0x90, 0xF0] ++ [0x20, 0x60, 0x20, 0x20, 0x70] ++
    [0xF0, 0x10, 0xF0, 0x80, 0xF0] ++ [0xF0, 0x10, 0xF0, 0x10, 0xF0] ++
    [0x90, 0x90, 0xF0, 0x10, 0x10] ++ [0xF0, 0x80, 0xF0, 0x10, 0xF0] ++
    [0xF0, 0x80, 0xF0, 0x90, 0xF0] ++ [0xF0, 0x10, 0x20, 0x40, 0x40] ++
    [0xF0, 0x90, 0xF0, 0x90, 0xF0] ++ [0xF0, 0x90, 0xF0, 0x10, 0xF0] ++
    [0xF0, 0x90, 0xF0, 0x90, 0x90] ++ [0xE0, 0x90, 0xE0, 0x90, 0xE0] ++
    [0xF0, 0x80, 0x80, 0x80, 0xF0] ++ [0xE0, 0x90, 0x90, 0x90, 0xE0] ++
    [0xF0, 0x80, 0xF0, 0x80, 0xF0] ++ [0xF0, 0x80, 0xF0, 0x80, 0x80]) ∧
  (∀ a, 80 ≤ a → State.reset.byteAt a = 0) ∧
  State.reset.mode = .running ∧ State.reset.waitX = 0 ∧ State.reset.waitKey = none ∧ State.reset.fault = none ∧
  State.reset.unrec = 0 ∧ State.reset.loaded = false

/-- R6, R7: the values of the parameters after reset: what the document gives (MEM_SIZE, PROG_BASE and so PROG_MAX,
NREGS, I_WIDTH, STACK_CAP, DISP_W, DISP_H, NKEYS, BATCH, SOUND_QUIRK) and what spec/92_eei_decisions.md decides (FONT_BASE, PC_WIDTH,
DRAW_BCD_ADDR_MODE, LOGIC_VF_RESET, LOADSTORE_I_MODE); they fit one another. That they are data beside the state is the model's choice
(entry 4). VF_ALIAS_ORDER, which is OPEN, and the font (in ResetHoldsTheStatedValues) are not named here. -/
def Obligations.ResetHoldsTheDefaultParameters : Prop :=
  State.reset.params.memSize = 4096 ∧ State.reset.params.progBase = 512 ∧ State.reset.params.progMax = 3584 ∧
  State.reset.params.fontBase = 0 ∧ State.reset.params.numRegs = 16 ∧ State.reset.params.iWidth = 16 ∧
  State.reset.params.pcWidth = 16 ∧ State.reset.params.numKeys = 16 ∧ State.reset.params.stackCap = 48 ∧ State.reset.params.dispW = 64 ∧
  State.reset.params.dispH = 32 ∧ State.reset.params.batch = 10 ∧ State.reset.params.soundQuirk = 3 ∧
  State.reset.params.addrMode = .modulo ∧ State.reset.params.logicVfReset = false ∧
  State.reset.params.loadStoreI = .unchanged ∧ State.reset.params.valid = true

/-- R38, R250, R251, R30: under every value of the parameters, what reset gives: PC at PROG_BASE, the NREGS registers and
NKEYS keys, the STACK_CAP entries of an empty stack and DISP_H rows of DISP_W pixels all zero, the font's bytes at FONT_BASE and 0x00 everywhere else. -/
def Obligations.ResetFollowsTheParameters : Prop :=
  ∀ p : Config.Params, p.valid = true →
    (State.resetWith p).pc = p.progBase ∧ (State.resetWith p).i = 0 ∧ (State.resetWith p).sp = 0 ∧
    (State.resetWith p).v.length = p.numRegs ∧ (∀ r, (State.resetWith p).reg r = 0) ∧
    (State.resetWith p).keys.length = p.numKeys ∧ (∀ k, (State.resetWith p).key k = false) ∧
    (State.resetWith p).stack.length = p.stackCap ∧ (∀ k, (State.resetWith p).entry k = 0) ∧
    (State.resetWith p).fb.shaped p = true ∧ (∀ r c, pixelAt (State.resetWith p).fb r c = false) ∧
    (∀ (k : Nat) (h : k < p.font.length), (State.resetWith p).byteAt (p.fontBase + k) = p.font[k]) ∧
    (∀ a, a < p.fontBase ∨ p.fontBase + p.font.length ≤ a → (State.resetWith p).byteAt a = 0) ∧
    (State.resetWith p).params = p

/-- R250: from any mode the reset command gives the reset state; what is not the block's (the parameters, the host's
remaining commands, the count of draws: entries 2, 4, 5) stays. -/
def Obligations.ResetCommandRestoresResetState : Prop :=
  ∀ (s : State) (rest : List HostCommand), s.slot = none → s.host = .reset :: rest →
    step s = .next { State.resetWith s.params with host := rest, draws := s.draws }

/-- R252: the three answers of load, and what each leaves: Ok copies the bytes to PROG_BASE up and nowhere else; the other
two change nothing but the answer. That the command comes from the host list, and the answer goes to a field of State, are
the model's choices (entry 2). -/
def Obligations.LoadAnswersAndCopies : Prop :=
  ∀ (s : State) (bytes : List Byte) (rest : List HostCommand),
    s.slot = none → s.host = .load bytes :: rest → s.mem.wf s.params = true →
    ∃ t, step s = .next t ∧
      (s.mode = .halted ∨ s.loaded = true → t = { s with host := rest, answer := some .refused }) ∧
      (s.mode ≠ .halted → s.loaded = false → s.params.progMax < bytes.length →
        t = { s with host := rest, answer := some .programTooLarge }) ∧
      (s.mode ≠ .halted → s.loaded = false → bytes.length ≤ s.params.progMax →
        (∀ (k : Nat) (h : k < bytes.length), t.byteAt (s.params.progBase + k) = bytes[k]) ∧
        (∀ a, a < s.params.progBase ∨ s.params.progBase + bytes.length ≤ a → t.byteAt a = s.byteAt a) ∧
        t = { s with mem := t.mem, loaded := true, host := rest, answer := some .ok })

/-! ### What every instruction leaves unchanged (R37) -/

/-- R37, rows V[x] and VF: a register changes only under an instruction that names it as its destination, or VF as a flag. -/
def Obligations.OnlyNamedRegistersChange : Prop :=
  ∀ (i : Instr) (s t : State) (r : Nat), exec i s = .next t → writesReg s.params r i = false → t.reg r = s.reg r

/-- R37, row MEM: a byte changes only under FX33 and FX55, and only at the addresses they store to, which are computed as
the instruction computes them. -/
def Obligations.OnlyStoredBytesChange : Prop :=
  ∀ (i : Instr) (s t : State) (a : Nat), exec i s = .next t → ¬ storesTo s a i → t.byteAt a = s.byteAt a

/-- R37, rows FB, STACK, DT, ST, I: each changes only under the instructions that its row names. -/
def Obligations.OnlyNamedInstructionsWriteDeviceState : Prop :=
  ∀ (i : Instr) (s t : State), exec i s = .next t →
    ((∀ x, i ≠ .cls x) → (∀ x y n, i ≠ .drw x y n) → t.fb = s.fb) ∧
    ((∀ x, i ≠ .ret x) → (∀ nnn, i ≠ .call nnn) → t.stack = s.stack ∧ t.sp = s.sp) ∧
    ((∀ x, i ≠ .ldDtVx x) → t.dt = s.dt) ∧
    ((∀ x, i ≠ .ldStVx x) → t.st = s.st) ∧
    ((∀ nnn, i ≠ .ldI nnn) → (∀ x, i ≠ .addIVx x) → (∀ x, i ≠ .ldFVx x) →
      (s.params.loadStoreI = .unchanged ∨ ((∀ x, i ≠ .ldMemVx x) ∧ ∀ x, i ≠ .ldVxMem x)) → t.i = s.i)

/-- R37, R28, R35, R208: no instruction writes KEY, UNREC or LOADED; only FX0A writes the wait latch or leaves Running for
AwaitingKey; none changes the parameters or the host's commands. -/
def Obligations.OnlyWaitInstructionWritesControlState : Prop :=
  ∀ (i : Instr) (s t : State), exec i s = .next t →
    t.keys = s.keys ∧ t.unrec = s.unrec ∧ t.loaded = s.loaded ∧ t.params = s.params ∧ t.slot = s.slot ∧
    t.host = s.host ∧ t.answer = s.answer ∧
    ((∀ x, i ≠ .ldVxK x) → t.waitX = s.waitX ∧ t.waitKey = s.waitKey ∧ (t.mode = s.mode ∨ t.mode = .halted))

/-- R96: every instruction but JP, JP V0, CALL, RET and the six skips leaves PC at `pc0 + 2`, unless it is fatal. -/
def Obligations.OtherInstructionsAdvanceThePc : Prop :=
  ∀ (i : Instr) (s t : State), exec i s = .next t → fatalCause s i = none →
    (∀ nnn, i ≠ .jp nnn ∧ i ≠ .jpV0 nnn ∧ i ≠ .call nnn) → (∀ x, i ≠ .ret x ∧ i ≠ .skp x ∧ i ≠ .sknp x) →
    (∀ x nn, i ≠ .seImm x nn ∧ i ≠ .sneImm x nn) → (∀ x y n, i ≠ .seReg x y n ∧ i ≠ .sneReg x y n) →
    t.pc = (s.pc + 2) % 2 ^ s.params.pcWidth

/-! ### Every step (R32, R36, R94) -/

/-- Every step keeps the invariant `State.Inv`: the parameters fit one another, memory canonical and inside 0..MEM_SIZE-1,
the registers, the keys, the display and the stack of their number, I within I_WIDTH, SP at most STACK_CAP, the fault report present exactly while Halted, a key latched
only while AwaitingKey, at most BATCH words a tick, every return address at most MEM_SIZE, and PC at most 0x10FE (or
MEM_SIZE + 2 where that is more), so that PC never wraps (R24, R25, R29, R34, R50, R96, R112, R113). The canonical form, the
slot and the parameters beside the state are the model's (entries 1, 4, 10). -/
def Obligations.EveryStepKeepsTheInvariant : Prop :=
  ∀ s t : State, s.Inv → step s = .next t → t.Inv

/-- The invariant holds at reset. -/
def Obligations.ResetMeetsTheInvariant : Prop := State.reset.Inv

/-- The model's steps never stop: every step answers a next state (R97: errors are taken, not left open). -/
def Obligations.EveryStepAnswersANextState : Prop := ∀ s : State, ∃ t, step s = .next t

/-- R32, R95, R97, R208, R209, R250: the only changes of MODE a step can make, each with its cause. Running to AwaitingKey:
the fetched word is FX0A. Running to Halted: the fetch is outside memory, or the fetched instruction is fatal by the cause
table. AwaitingKey to Running: a tick finds the latched key up. To Running otherwise: the reset command; so Halted is left
only by reset. The slot and the host list are the model's own fields (entries 1, 2). -/
def Obligations.ModeChangesOnlyAsStated : Prop :=
  ∀ s t : State, step s = .next t → t.mode ≠ s.mode →
    (s.mode = .running ∧ t.mode = .awaitingKey ∧ (∃ k, s.slot = some k ∧ k < s.params.batch) ∧
      ∃ hi lo x, s.memRead s.pc = some hi ∧ s.memRead (s.pc + 1) = some lo ∧
        decode (joinBytes hi lo) = .ok (.ldVxK x)) ∨
    (s.mode = .running ∧ t.mode = .halted ∧ (∃ k, s.slot = some k ∧ k < s.params.batch) ∧
      (s.params.memSize ≤ s.pc + 1 ∨
        ∃ hi lo i, s.memRead s.pc = some hi ∧ s.memRead (s.pc + 1) = some lo ∧
          decode (joinBytes hi lo) = .ok i ∧ (fatalCause s i).isSome = true)) ∨
    (s.mode = .awaitingKey ∧ t.mode = .running ∧ s.slot = none ∧
      ∃ (keys : List Bool) (rest : List HostCommand) (k : Nat),
        s.host = .tick keys :: rest ∧ s.waitKey = some k ∧ keys.getD k false = false) ∨
    (t.mode = .running ∧ s.slot = none ∧ ∃ rest, s.host = .reset :: rest)

/-- R7: no step changes a parameter. -/
def Obligations.NoStepChangesTheParameters : Prop :=
  ∀ s t : State, step s = .next t → t.params = s.params

/-- R233, R234, R94: from a Halted block, a step that is not the reset command changes no piece of the block's state; only
the model's own fields for the tick, the commands and the answer move (entries 1, 2). -/
def Obligations.FaultReportIsWrittenOnce : Prop :=
  ∀ s t : State, step s = .next t → s.mode = .halted → (s.slot = none → ∀ rest, s.host ≠ .reset :: rest) →
    t.fault = s.fault ∧ t.mode = .halted ∧ t.v = s.v ∧ t.i = s.i ∧ t.pc = s.pc ∧ t.stack = s.stack ∧ t.sp = s.sp ∧
    t.dt = s.dt ∧ t.st = s.st ∧ t.keys = s.keys ∧ t.fb = s.fb ∧ t.mem = s.mem ∧ t.waitX = s.waitX ∧
    t.waitKey = s.waitKey ∧ t.unrec = s.unrec ∧ t.loaded = s.loaded ∧
    t = { s with slot := t.slot, host := t.host, answer := t.answer }

/-- The host's word placed by `withFetchWord` is what the next step runs (entry 7: a choice of the model). -/
def Obligations.PlacedWordRunsNext : Prop :=
  ∀ (s : State) (w : Nat) (i : Instr), s.params.valid = true → s.mem.wf s.params = true → decodeTableWord 16 w = some i →
    step (s.withFetchWord 16 w) =
      mapNext (fun t => { t with slot := some 1 }) (exec i (s.withFetchWord 16 w))
end

