-- ==== Sys2Proof/Laws/Decode.lean ====
section
/-! SUPPORT. The fields of the words the encoder writes, and a word from its fields (R71). -/

namespace Sys2Proof

@[simp] theorem fieldTop_wordNNN (c : Nibble) (a : Addr12) : fieldTop (wordNNN c a) = c := by
  ext j hj
  simp only [fieldTop, wordNNN, BitVec.getElem_extractLsb', BitVec.getLsbD_append]
  have : ¬(12 + j < 12) := by omega
  simp [this, BitVec.getLsbD_eq_getElem hj]

@[simp] theorem fieldNNN_wordNNN (c : Nibble) (a : Addr12) : fieldNNN (wordNNN c a) = a := by
  ext j hj
  simp only [fieldNNN, wordNNN, BitVec.getElem_extractLsb', BitVec.getLsbD_append]
  simp [hj]

@[simp] theorem fieldTop_wordXNN (c : Nibble) (x : Reg) (b : Byte) : fieldTop (wordXNN c x b) = c :=
  fieldTop_wordNNN c _

@[simp] theorem fieldTop_wordXYN (c : Nibble) (x y : Reg) (n : Nibble) : fieldTop (wordXYN c x y n) = c :=
  fieldTop_wordNNN c _

@[simp] theorem fieldNN_wordXNN (c : Nibble) (x : Reg) (b : Byte) : fieldNN (wordXNN c x b) = b := by
  ext j hj
  simp only [fieldNN, wordXNN, BitVec.getElem_extractLsb', BitVec.getLsbD_append]
  have : j < 12 := by omega
  simp [hj, this]

/-- The nibble at bits 11..8 of a word built over it. -/
theorem fieldX_append (c m : Nibble) (b : Byte) : (fieldX (c ++ (m ++ b))).val = m.toNat := by
  have : (c ++ (m ++ b) : Word).extractLsb' 8 4 = m := by
    ext j hj
    simp only [BitVec.getElem_extractLsb', BitVec.getLsbD_append]
    have h1 : 8 + j < 12 := by omega
    have h2 : ¬(8 + j < 8) := by omega
    simp [h1, BitVec.getLsbD_eq_getElem hj]
  show ((c ++ (m ++ b) : Word).extractLsb' 8 4).toNat = m.toNat
  rw [this]

@[simp] theorem fieldX_wordXNN (c : Nibble) (x : Reg) (b : Byte) : fieldX (wordXNN c x b) = x := by
  have := x.isLt
  apply Fin.ext
  rw [wordXNN, fieldX_append, BitVec.toNat_ofNat]
  exact Nat.mod_eq_of_lt this

@[simp] theorem fieldX_wordXYN (c : Nibble) (x y : Reg) (n : Nibble) : fieldX (wordXYN c x y n) = x := by
  have := x.isLt
  apply Fin.ext
  rw [wordXYN, fieldX_append, BitVec.toNat_ofNat]
  exact Nat.mod_eq_of_lt this

@[simp] theorem fieldY_wordXYN (c : Nibble) (x y : Reg) (n : Nibble) : fieldY (wordXYN c x y n) = y := by
  have hy := y.isLt
  have : (wordXYN c x y n).extractLsb' 4 4 = BitVec.ofNat 4 y.val := by
    ext j hj
    simp only [wordXYN, BitVec.getElem_extractLsb', BitVec.getLsbD_append]
    have h1 : 4 + j < 12 := by omega
    have h2 : 4 + j < 8 := by omega
    have h3 : ¬(4 + j < 4) := by omega
    simp [h1, h2, BitVec.getLsbD_eq_getElem hj]
  apply Fin.ext
  show ((wordXYN c x y n).extractLsb' 4 4).toNat = y.val
  rw [this, BitVec.toNat_ofNat]
  exact Nat.mod_eq_of_lt hy

@[simp] theorem fieldN_wordXYN (c : Nibble) (x y : Reg) (n : Nibble) : fieldN (wordXYN c x y n) = n := by
  ext j hj
  simp only [fieldN, wordXYN, BitVec.getElem_extractLsb', BitVec.getLsbD_append]
  have h1 : j < 12 := by omega
  have h2 : j < 8 := by omega
  simp [hj, h1, h2]

/-- A word is its top nibble and its NNN. -/
theorem wordNNN_fields (w : Word) : wordNNN (fieldTop w) (fieldNNN w) = w := by
  ext j hj
  simp only [wordNNN, fieldTop, fieldNNN]
  rw [BitVec.getElem_append]
  split
  · next h => simp [BitVec.getLsbD_eq_getElem hj]
  · next h =>
    have : 12 + (j - 12) = j := by omega
    simp [this, BitVec.getLsbD_eq_getElem hj]

/-- NNN is X and NN. -/
theorem fieldNNN_eq (w : Word) : fieldNNN w = BitVec.ofNat 4 (fieldX w).val ++ fieldNN w := by
  have hx : BitVec.ofNat 4 (fieldX w).val = w.extractLsb' 8 4 := by
    show BitVec.ofNat 4 (w.extractLsb' 8 4).toNat = _
    rw [BitVec.ofNat_toNat, BitVec.setWidth_eq]
  rw [hx]
  ext j hj
  simp only [fieldNNN, fieldNN]
  rw [BitVec.getElem_append]
  split
  · next h => simp
  · next h =>
    have : 8 + (j - 8) = j := by omega
    simp [this]

/-- NN is Y and N. -/
theorem fieldNN_eq (w : Word) : fieldNN w = BitVec.ofNat 4 (fieldY w).val ++ fieldN w := by
  have hy : BitVec.ofNat 4 (fieldY w).val = w.extractLsb' 4 4 := by
    show BitVec.ofNat 4 (w.extractLsb' 4 4).toNat = _
    rw [BitVec.ofNat_toNat, BitVec.setWidth_eq]
  rw [hy]
  ext j hj
  simp only [fieldNN, fieldN]
  rw [BitVec.getElem_append]
  split
  · next h => simp
  · next h =>
    have : 4 + (j - 4) = j := by omega
    simp [this]

/-- A word is its top nibble, X and NN. -/
theorem wordXNN_fields (w : Word) : wordXNN (fieldTop w) (fieldX w) (fieldNN w) = w := by
  have := wordNNN_fields w
  rwa [fieldNNN_eq] at this

/-- A word is its top nibble, X, Y and N. -/
theorem wordXYN_fields (w : Word) : wordXYN (fieldTop w) (fieldX w) (fieldY w) (fieldN w) = w := by
  have := wordXNN_fields w
  rwa [fieldNN_eq] at this

/-- A word is its high byte and its low byte (R53). -/
theorem joinBytes_bytes (w : Word) : joinBytes (highByte w) (lowByte w) = w := by
  apply BitVec.eq_of_getLsbD_eq
  intro j hj
  have hj16 : j < 16 := hj
  show BitVec.getLsbD (BitVec.extractLsb' 8 8 w ++ BitVec.extractLsb' 0 8 w) j = _
  rw [BitVec.getLsbD_append]
  split
  · next h => simp [h]
  · next h =>
    have e : 8 + (j - 8) = j := by omega
    have h8 : j - 8 < 8 := by omega
    rw [BitVec.getLsbD_extractLsb', e]
    simp [h8]

/-- The decoder reads a word's bytes as the word. -/
theorem decodeBytes_wordBytes (w : Word) (rest : List Byte) :
    decodeBytes (wordBytes w ++ rest) =
      match decode w with
      | .ok i => .ok (i, rest)
      | .error r => .error r := by
  show (match decode (joinBytes (highByte w) (lowByte w)) with | .ok i => _ | .error r => _) = _
  rw [joinBytes_bytes]
  rfl

/-- The fixed bits of a word with a fixed top nibble. -/
theorem top_fixed (c : Nibble) (a : Addr12) : wordNNN c a &&& 0xF000 = c ++ (0 : Addr12) := by
  apply BitVec.eq_of_getLsbD_eq
  intro j hj
  have hj16 : j < 16 := hj
  simp only [wordNNN, BitVec.getLsbD_and, BitVec.getLsbD_append]
  interval_cases j <;> simp

/-- The fixed bits of a word with a fixed top nibble and low byte. -/
theorem top_byte_fixed (c : Nibble) (x : Reg) (b : Byte) :
    wordXNN c x b &&& 0xF0FF = c ++ ((0 : Nibble) ++ b) := by
  apply BitVec.eq_of_getLsbD_eq
  intro j hj
  have hj16 : j < 16 := hj
  simp only [wordXNN, BitVec.getLsbD_and, BitVec.getLsbD_append]
  interval_cases j <;> simp

/-- The fixed bits of a word with a fixed top nibble and low nibble. -/
theorem top_nibble_fixed (c : Nibble) (x y : Reg) (n : Nibble) :
    wordXYN c x y n &&& 0xF00F = c ++ ((0 : Nibble) ++ ((0 : Nibble) ++ n)) := by
  apply BitVec.eq_of_getLsbD_eq
  intro j hj
  have hj16 : j < 16 := hj
  simp only [wordXYN, BitVec.getLsbD_and, BitVec.getLsbD_append]
  interval_cases j <;> simp

end Sys2Proof
end

