-- ==== Sys2Proof/Laws/Table.lean ====
section
/-! SUPPORT. What a write of one entry does to a table held as a list: the stack, the display and its rows. -/

namespace Sys2Proof.Machine

/-- A table after a write of entry `k`. -/
theorem getD_setAt {α : Type} (fill a : α) (xs : List α) (k j : Nat) :
    (setAt fill xs k a).getD j fill = if j = k then a else xs.getD j fill := by
  induction k generalizing xs j with
  | zero => cases xs <;> cases j <;> simp [setAt]
  | succ k ih =>
    simp only [List.getD_eq_getElem?_getD] at ih
    cases xs <;> cases j <;> simp [setAt, ih]

/-- A write inside a table keeps its length. -/
theorem length_setAt {α : Type} (fill a : α) {xs : List α} {k : Nat} (h : k < xs.length) :
    (setAt fill xs k a).length = xs.length := by
  induction k generalizing xs with
  | zero => cases xs with
    | nil => simp at h
    | cons x xs => rfl
  | succ k ih => cases xs with
    | nil => simp at h
    | cons x xs => simp only [setAt, List.length_cons, ih (Nat.lt_of_succ_lt_succ h)]

/-- A write inside a table, entry by entry. -/
theorem mem_setAt {α : Type} {fill a b : α} {xs : List α} {k : Nat} (h : k < xs.length) (hb : b ∈ setAt fill xs k a) :
    b = a ∨ b ∈ xs := by
  induction k generalizing xs with
  | zero => cases xs with
    | nil => simp at h
    | cons x xs => simp only [setAt, List.mem_cons] at hb ⊢; tauto
  | succ k ih => cases xs with
    | nil => simp at h
    | cons x xs =>
      simp only [setAt, List.mem_cons] at hb ⊢
      rcases hb with hb | hb
      · exact .inr (.inl hb)
      · exact (ih (Nat.lt_of_succ_lt_succ h) hb).imp_right .inr

end Sys2Proof.Machine
end

