-- ==== Sys2Proof/Laws/Display.lean ====
section
/-! SUPPORT. What the blitter does, said once: each loop inverts exactly the pixels its set source bits cover, and hits exactly
where one of them was on. -/

namespace Sys2Proof.Machine

/-- The bit positions `ks` of a sprite byte cover column `c`. -/
def bitsCover (b : Byte) (c0 c : Nat) (ks : List Nat) : Bool := ks.any fun k => spriteBit b k && (c0 + k == c)

/-- The sprite rows from row `r` down cover the pixel at `r'`, `c`. -/
def rowsCover (c0 r' c : Nat) : Nat → List Byte → Bool
  | _, [] => false
  | r, b :: bs => (r == r' && bitsCover b c0 c [0, 1, 2, 3, 4, 5, 6, 7]) || rowsCover c0 r' c (r + 1) bs

variable {p : Config.Params}

/-- The pixel exists (R180). -/
def inGrid (p : Config.Params) (r c : Nat) : Bool := decide (r < p.dispH ∧ c < p.dispW)

/-- A pixel after a write of one pixel. -/
theorem pixelAt_setPixel (fb : Frame) (r c r' c' : Nat) (on : Bool) :
    pixelAt (setPixel fb r c on) r' c' = if r' = r ∧ c' = c then on else pixelAt fb r' c' := by
  unfold pixelAt setPixel
  rw [getD_setAt]
  by_cases hr : r' = r
  · subst hr
    simp only [if_true, true_and, getD_setAt]
  · simp only [hr, if_false, false_and]

/-- One source bit inverts its pixel, if it is in the grid, and no other. -/
theorem pixelAt_invertPixel (acc : Frame × Bool) (r c r' c' : Nat) :
    pixelAt (invertPixel p acc r c).1 r' c' =
      xor (pixelAt acc.1 r' c') (inGrid p r' c' && (r == r' && c == c')) := by
  unfold invertPixel
  by_cases e : r' = r ∧ c' = c
  · obtain ⟨rfl, rfl⟩ := e
    by_cases h : r' < p.dispH ∧ c' < p.dispW <;> simp [inGrid, h, pixelAt_setPixel]
  · have : (r == r' && c == c') = false := by
      simp only [Bool.and_eq_false_iff, beq_eq_false_iff_ne]
      omega
    rw [this, Bool.and_false, Bool.xor_false]
    split
    · exact (pixelAt_setPixel ..).trans (if_neg e)
    · rfl

/-- One source bit hits exactly where its pixel is in the grid and on. -/
theorem invertPixel_hit (acc : Frame × Bool) (r c : Nat) :
    (invertPixel p acc r c).2 = (acc.2 || (inGrid p r c && pixelAt acc.1 r c)) := by
  unfold invertPixel inGrid
  split <;> simp [*]

theorem pixelAt_blitBits (ks : List Nat) (hn : ks.Nodup) (acc : Frame × Bool) (r c0 : Nat) (b : Byte) (r' c' : Nat) :
    pixelAt (blitBits p acc r c0 b ks).1 r' c' =
      xor (pixelAt acc.1 r' c') (inGrid p r' c' && (r == r' && bitsCover b c0 c' ks)) := by
  induction ks generalizing acc with
  | nil => simp [blitBits, bitsCover]
  | cons k ks ih =>
    obtain ⟨hk, hn⟩ := List.nodup_cons.1 hn
    have hdisj : c0 + k = c' → bitsCover b c0 c' ks = false := by
      intro e
      simp only [bitsCover, List.any_eq_false]
      intro j hj
      have : j ≠ k := fun e' => hk (e' ▸ hj)
      simp only [Bool.and_eq_true, beq_iff_eq, not_and]
      omega
    have hcons : bitsCover b c0 c' (k :: ks) = ((spriteBit b k && (c0 + k == c')) || bitsCover b c0 c' ks) := rfl
    rw [blitBits, ih hn, hcons]
    by_cases hb : spriteBit b k = true
    · rw [if_pos hb, pixelAt_invertPixel, hb]
      by_cases e : c0 + k = c'
      · rw [hdisj e]; simp [e]
      · simp [beq_eq_false_iff_ne.2 e]
    · rw [if_neg hb]; simp [hb]

theorem blitBits_hit (ks : List Nat) (hn : ks.Nodup) (acc : Frame × Bool) (r c0 : Nat) (b : Byte) :
    (blitBits p acc r c0 b ks).2 =
      (acc.2 || ks.any fun k => spriteBit b k && (inGrid p r (c0 + k) && pixelAt acc.1 r (c0 + k))) := by
  induction ks generalizing acc with
  | nil => simp [blitBits]
  | cons k ks ih =>
    obtain ⟨hk, hn⟩ := List.nodup_cons.1 hn
    rw [blitBits, ih hn]
    by_cases hb : spriteBit b k = true
    · have hrest : (ks.any fun j => spriteBit b j && (inGrid p r (c0 + j) &&
            pixelAt (invertPixel p acc r (c0 + k)).1 r (c0 + j))) =
          ks.any fun j => spriteBit b j && (inGrid p r (c0 + j) && pixelAt acc.1 r (c0 + j)) := by
        rw [Bool.eq_iff_iff, List.any_eq_true, List.any_eq_true]
        refine exists_congr fun j => and_congr_right fun hj => ?_
        have hne : (c0 + k == c0 + j) = false := by
          have : j ≠ k := fun e' => hk (e' ▸ hj)
          exact beq_eq_false_iff_ne.2 fun e => this (Nat.add_left_cancel e).symm
        rw [pixelAt_invertPixel, hne]; simp
      rw [if_pos hb, hrest, invertPixel_hit]
      simp [hb, Bool.or_assoc]
    · rw [if_neg hb]; simp [hb]

theorem rowsCover_above (c0 r' c : Nat) (bs : List Byte) {r : Nat} (h : r' < r) : rowsCover c0 r' c r bs = false := by
  induction bs generalizing r with
  | nil => rfl
  | cons b bs ih =>
    have : (r == r') = false := by simp only [beq_eq_false_iff_ne]; omega
    simp [rowsCover, this, ih (r := r + 1) (by omega)]

/-- A blit inverts exactly the covered pixels of the grid (R182). -/
theorem pixelAt_blitRows (bs : List Byte) (acc : Frame × Bool) (r c0 r' c' : Nat) :
    pixelAt (blitRows p acc r c0 bs).1 r' c' =
      xor (pixelAt acc.1 r' c') (inGrid p r' c' && rowsCover c0 r' c' r bs) := by
  induction bs generalizing acc r with
  | nil => simp [blitRows, rowsCover]
  | cons b bs ih =>
    rw [blitRows, ih, pixelAt_blitBits _ (by decide), rowsCover]
    by_cases e : r = r'
    · subst e
      rw [rowsCover_above c0 r c' bs (Nat.lt_succ_self r)]
      simp
    · simp [beq_eq_false_iff_ne.2 e]

/-- A blit hits exactly where a covered pixel was on before it (R184). -/
theorem blitRows_hit (bs : List Byte) (acc : Frame × Bool) (r c0 : Nat) :
    (blitRows p acc r c0 bs).2 = true ↔
      acc.2 = true ∨
        ∃ r' c', inGrid p r' c' = true ∧ rowsCover c0 r' c' r bs = true ∧ pixelAt acc.1 r' c' = true := by
  induction bs generalizing acc r with
  | nil => simp [blitRows, rowsCover]
  | cons b bs ih =>
    have hbelow : ∀ r' c', rowsCover c0 r' c' (r + 1) bs = true →
        pixelAt (blitBits p acc r c0 b [0, 1, 2, 3, 4, 5, 6, 7]).1 r' c' = pixelAt acc.1 r' c' := by
      intro r' c' hcov
      have hne : (r == r') = false := by
        simp only [beq_eq_false_iff_ne]
        rintro rfl
        rw [rowsCover_above c0 r c' bs (Nat.lt_succ_self r)] at hcov
        exact Bool.false_ne_true hcov
      rw [pixelAt_blitBits _ (by decide), hne, Bool.false_and, Bool.and_false, Bool.xor_false]
    rw [blitRows, ih, blitBits_hit _ (by decide)]
    constructor
    · rintro (h | ⟨r', c', hin, hcov, hp⟩)
      · rw [Bool.or_eq_true] at h
        rcases h with h | h
        · exact .inl h
        · obtain ⟨k, hk, hb⟩ := List.any_eq_true.1 h
          simp only [Bool.and_eq_true] at hb
          have : bitsCover b c0 (c0 + k) [0, 1, 2, 3, 4, 5, 6, 7] = true :=
            List.any_eq_true.2 ⟨k, hk, by simp [hb.1]⟩
          exact .inr ⟨r, c0 + k, hb.2.1, by simp [rowsCover, this], hb.2.2⟩
      · exact .inr ⟨r', c', hin, by simp [rowsCover, hcov], (hbelow r' c' hcov).symm.trans hp⟩
    · rintro (h | ⟨r', c', hin, hcov, hp⟩)
      · exact .inl (by simp [h])
      · simp only [rowsCover, Bool.or_eq_true, Bool.and_eq_true, beq_iff_eq] at hcov
        rcases hcov with ⟨rfl, hcov⟩ | hcov
        · obtain ⟨k, hk, hb⟩ := List.any_eq_true.1 hcov
          simp only [Bool.and_eq_true, beq_iff_eq] at hb
          refine .inl ?_
          rw [Bool.or_eq_true]
          refine .inr (List.any_eq_true.2 ⟨k, hk, ?_⟩)
          rw [hb.2, hb.1, hin, hp]
          rfl
        · exact .inr ⟨r', c', hin, hcov, (hbelow r' c' hcov).trans hp⟩

/-- A sprite from row `r` down covers `(r', c')` exactly by bit `7 - (c' - c0)` of its byte `r' - r`. -/
theorem rowsCover_eq (c0 r' c' : Nat) (bs : List Byte) (r : Nat) :
    rowsCover c0 r' c' r bs =
      (decide (r ≤ r' ∧ r' < r + bs.length ∧ c0 ≤ c' ∧ c' < c0 + 8) && (bs.getD (r' - r) 0).getLsbD (7 - (c' - c0))) := by
  have hbits : ∀ b : Byte, bitsCover b c0 c' [0, 1, 2, 3, 4, 5, 6, 7] =
      (decide (c0 ≤ c' ∧ c' < c0 + 8) && b.getLsbD (7 - (c' - c0))) := by
    intro b
    by_cases h : c0 ≤ c' ∧ c' < c0 + 8
    · obtain ⟨d, rfl⟩ := Nat.exists_eq_add_of_le h.1
      have hd : d < 8 := by omega
      have hbeq : ∀ k, (c0 + k == c0 + d) = (k == d) := fun k => by simp
      simp only [bitsCover, List.any_cons, List.any_nil, hbeq, spriteBit, h, Nat.add_sub_cancel_left]
      interval_cases d <;> simp
    · have : bitsCover b c0 c' [0, 1, 2, 3, 4, 5, 6, 7] = false := by
        simp only [bitsCover, List.any_eq_false, Bool.and_eq_true, beq_iff_eq, not_and]
        intro k hk _
        have : k < 8 := by
          have hall : ∀ k ∈ [0, 1, 2, 3, 4, 5, 6, 7], k < 8 := by decide
          exact hall k hk
        omega
      simp [this, h]
  induction bs generalizing r with
  | nil => simp [rowsCover]
  | cons b bs ih =>
    rw [rowsCover, ih, hbits]
    by_cases e : r = r'
    · subst e; simp
    · by_cases hlt : r < r'
      · obtain ⟨d, hd⟩ := Nat.exists_eq_add_of_lt hlt
        have e1 : r' - r = d + 1 := by omega
        have e2 : r' - (r + 1) = d := by omega
        have h3 : (r + 1 ≤ r' ∧ r' < r + 1 + bs.length ∧ c0 ≤ c' ∧ c' < c0 + 8) ↔
            (r ≤ r' ∧ r' < r + (bs.length + 1) ∧ c0 ≤ c' ∧ c' < c0 + 8) := by omega
        rw [beq_eq_false_iff_ne.2 e, e1, e2, List.getD_cons_succ, List.length_cons]
        simp only [h3, Bool.false_and, Bool.false_or]
      · have h3 : ¬(r ≤ r') := by omega
        have h4 : ¬(r + 1 ≤ r') := by omega
        simp [beq_eq_false_iff_ne.2 e, h3, h4]

/-! ### The shape of the framebuffer (R29) -/

theorem shaped_iff (fb : Frame) :
    fb.shaped p = true ↔ fb.length = p.dispH ∧ ∀ row ∈ fb, row.length = p.dispW := by
  simp [Frame.shaped]

/-- No pixel outside the grid is on. -/
theorem pixelAt_outside {fb : Frame} (h : fb.shaped p = true) {r c : Nat} (hg : ¬(r < p.dispH ∧ c < p.dispW)) :
    pixelAt fb r c = false := by
  obtain ⟨h1, h2⟩ := (shaped_iff fb).1 h
  unfold pixelAt
  by_cases hr : r < fb.length
  · rw [List.getD_eq_getElem _ _ hr]
    exact List.getD_eq_default _ _ (h2 _ (List.getElem_mem hr) ▸ by omega)
  · rw [List.getD_eq_default _ _ (Nat.not_lt.1 hr)]
    rfl

/-- Two framebuffers of the display's size with the same pixels are the same. -/
theorem Frame.ext_pixelAt {f g : Frame} (hf : f.shaped p = true) (hg : g.shaped p = true)
    (h : ∀ r c, pixelAt f r c = pixelAt g r c) : f = g := by
  obtain ⟨hf1, hf2⟩ := (shaped_iff f).1 hf
  obtain ⟨hg1, hg2⟩ := (shaped_iff g).1 hg
  refine List.ext_getElem (hf1.trans hg1.symm) fun r h1 h2 => ?_
  refine List.ext_getElem ((hf2 _ (List.getElem_mem h1)).trans (hg2 _ (List.getElem_mem h2)).symm) fun c h3 h4 => ?_
  simpa [pixelAt, h1, h2, h3, h4] using h r c

/-- Inverting a pixel keeps the display's size. -/
theorem shaped_invertPixel (acc : Frame × Bool) (r c : Nat) (h : acc.1.shaped p = true) :
    (invertPixel p acc r c).1.shaped p = true := by
  unfold invertPixel
  split
  · next hg =>
    obtain ⟨h1, h2⟩ := (shaped_iff acc.1).1 h
    have hr : r < acc.1.length := h1.symm ▸ hg.1
    have hrow : (acc.1.getD r []).length = p.dispW := by
      rw [List.getD_eq_getElem _ _ hr]
      exact h2 _ (List.getElem_mem hr)
    refine (shaped_iff _).2 ⟨(length_setAt _ _ hr).trans h1, fun row hm => ?_⟩
    rcases mem_setAt hr hm with rfl | hm
    · exact (length_setAt _ _ (hrow.symm ▸ hg.2)).trans hrow
    · exact h2 row hm
  · exact h

/-- A draw keeps the display's size. -/
theorem shaped_drawSprite {fb : Frame} (row col : Byte) (bs : List Byte) (h : fb.shaped p = true) :
    (drawSprite p fb row col bs).1.shaped p = true := by
  have hbits : ∀ (ks : List Nat) (acc : Frame × Bool) (r c0 : Nat) (b : Byte), acc.1.shaped p = true →
      (blitBits p acc r c0 b ks).1.shaped p = true := by
    intro ks
    induction ks with
    | nil => exact fun _ _ _ _ h => h
    | cons k ks ih =>
      intro acc r c0 b h
      refine ih _ r c0 b ?_
      split
      · exact shaped_invertPixel _ _ _ h
      · exact h
  have hrows : ∀ (bs : List Byte) (acc : Frame × Bool) (r c0 : Nat), acc.1.shaped p = true →
      (blitRows p acc r c0 bs).1.shaped p = true := by
    intro bs
    induction bs with
    | nil => exact fun _ _ _ h => h
    | cons b bs ih => exact fun acc r c0 h => ih _ _ _ (hbits _ _ _ _ _ h)
  exact hrows bs _ _ _ h

/-- The blank display has the display's size. -/
theorem shaped_blankFrame : (blankFrame p).shaped p = true := by
  refine (shaped_iff _).2 ⟨List.length_replicate, fun row hm => ?_⟩
  rw [List.eq_of_mem_replicate hm, List.length_replicate]

/-- No pixel of the blank display is on. -/
theorem pixelAt_blankFrame (r c : Nat) : pixelAt (blankFrame p) r c = false := by
  unfold pixelAt blankFrame
  simp only [List.getD_eq_getElem?_getD, List.getElem?_replicate]
  split <;> simp [List.getElem?_replicate]
  split <;> rfl

end Sys2Proof.Machine
end

