-- ==== Sys2Proof/Laws/Memory.lean ====
section
/-! SUPPORT. Laws of memory: a read after a write, what a write leaves alone, and that every operation keeps the canonical
form. -/

namespace Sys2Proof.Machine

variable {p : Config.Params}

/-- What it is that the parameters fit one another (entry 15). -/
theorem valid_iff :
    p.valid = true ↔ p.progBase + 2 ≤ p.memSize ∧ p.memSize + 4 ≤ 2 ^ p.pcWidth ∧ 0x10FE < 2 ^ p.pcWidth ∧
      p.font.length = 80 ∧ p.fontBase + p.font.length ≤ p.memSize ∧
      0xFFF < 2 ^ p.iWidth ∧ p.fontBase + 5 * 255 < 2 ^ p.iWidth ∧
      16 ≤ p.numRegs ∧ p.numKeys ≤ 256 ∧ 0 < p.dispW ∧ 0 < p.dispH ∧ 0 < p.batch :=
  decide_eq_true_iff

theorem inBounds_iff (a : Nat) : inBounds p a = true ↔ a < p.memSize := decide_eq_true_iff

theorem wfFrom_cons (low a : Nat) (x : Byte) (rest : Memory) :
    wfFrom p low ((a, x) :: rest) = true ↔
      low ≤ a ∧ inBounds p a = true ∧ x ≠ resetByte p a ∧ wfFrom p (a + 1) rest = true := by
  simp [wfFrom, and_assoc]

theorem wfFrom_mono {low low' : Nat} {m : Memory} (h : low' ≤ low) (hm : wfFrom p low m = true) :
    wfFrom p low' m = true := by
  cases m with
  | nil => rfl
  | cons c rest =>
    obtain ⟨a, x⟩ := c
    rw [wfFrom_cons] at hm ⊢
    exact ⟨h.trans hm.1, hm.2⟩

/-- An address below every listed one reads as its reset byte. -/
theorem readCell_below {m : Memory} {low b : Nat} (hm : wfFrom p low m = true) (hb : b < low) :
    readCell p m b = resetByte p b := by
  induction m generalizing low with
  | nil => rfl
  | cons c rest ih =>
    obtain ⟨a, x⟩ := c
    rw [wfFrom_cons] at hm
    have : a ≠ b := by omega
    simp only [readCell, this, if_false]
    exact ih hm.2.2.2 (by omega)

theorem readCell_consCell (a b : Nat) (x : Byte) (rest : Memory) (h : readCell p rest a = resetByte p a) :
    readCell p (consCell p a x rest) b = if a = b then x else readCell p rest b := by
  unfold consCell
  split
  · next hx => split <;> simp_all
  · rfl

/-- A write leaves every other address alone, in any memory. -/
theorem readCell_writeCell_ne (m : Memory) {a b : Nat} (x : Byte) (h : a ≠ b) :
    readCell p (writeCell p m a x) b = readCell p m b := by
  have hc : ∀ rest, readCell p (consCell p a x rest) b = readCell p rest b := by
    intro rest; unfold consCell; split <;> simp [readCell, h]
  induction m with
  | nil => exact hc []
  | cons c rest ih =>
    obtain ⟨d, y⟩ := c
    simp only [writeCell]
    split
    · exact hc _
    split
    · next h2 => subst h2; rw [hc]; simp [readCell, h]
    · simp [readCell, ih]

/-- A read of the address just written gives the byte written. -/
theorem readCell_writeCell_same {m : Memory} {low : Nat} (hm : wfFrom p low m = true) (a : Nat) (x : Byte) :
    readCell p (writeCell p m a x) a = x := by
  induction m generalizing low with
  | nil => simp [writeCell, readCell_consCell a a x [] rfl]
  | cons c rest ih =>
    obtain ⟨d, y⟩ := c
    have hd := (wfFrom_cons ..).1 hm
    simp only [writeCell]
    split
    · next h1 =>
      rw [readCell_consCell _ _ _ _ (readCell_below (low := d) ((wfFrom_cons ..).2 ⟨le_rfl, hd.2⟩) h1)]; simp
    split
    · next h2 => subst h2; rw [readCell_consCell _ _ _ _ (readCell_below hd.2.2.2 (by omega))]; simp
    · next h2 =>
      have h3 : d ≠ a := Ne.symm h2
      simp only [readCell, h3, if_false]
      exact ih hd.2.2.2

theorem readCell_writeCell {m : Memory} (hm : m.wf p = true) (a b : Nat) (x : Byte) :
    readCell p (writeCell p m a x) b = if a = b then x else readCell p m b := by
  split
  · next h => subst h; exact readCell_writeCell_same hm a x
  · next h => exact readCell_writeCell_ne m x h

theorem wfFrom_consCell {low a : Nat} {x : Byte} {rest : Memory} (h1 : low ≤ a) (h2 : inBounds p a = true)
    (h3 : wfFrom p (a + 1) rest = true) : wfFrom p low (consCell p a x rest) = true := by
  unfold consCell
  split
  · exact wfFrom_mono (by omega) h3
  · next h => exact (wfFrom_cons ..).2 ⟨h1, h2, h, h3⟩

theorem wfFrom_writeCell {m : Memory} {low a : Nat} (x : Byte) (hm : wfFrom p low m = true) (hl : low ≤ a)
    (ha : inBounds p a = true) : wfFrom p low (writeCell p m a x) = true := by
  induction m generalizing low with
  | nil => exact wfFrom_consCell hl ha rfl
  | cons c rest ih =>
    obtain ⟨d, y⟩ := c
    have hd := (wfFrom_cons ..).1 hm
    simp only [writeCell]
    split
    · next h1 => exact wfFrom_consCell hl ha ((wfFrom_cons ..).2 ⟨h1, hd.2⟩)
    split
    · next h2 => subst h2; exact wfFrom_consCell hl ha hd.2.2.2
    · next h1 h2 => exact (wfFrom_cons ..).2 ⟨hd.1, hd.2.1, hd.2.2.1, ih hd.2.2.2 (by omega)⟩

/-- A write to an address that exists keeps the canonical form. -/
theorem writeCell_wf {m : Memory} (a : Nat) (x : Byte) (hm : m.wf p = true) (ha : inBounds p a = true) :
    (writeCell p m a x).wf p = true :=
  wfFrom_writeCell x hm (Nat.zero_le a) ha

/-- Writes of a block that exists keep the canonical form. -/
theorem writeBytes_wf (xs : List Byte) {m : Memory} {a : Nat} (hm : m.wf p = true)
    (ha : a + xs.length ≤ p.memSize) : (writeBytes p m a xs).wf p = true := by
  induction xs generalizing m a with
  | nil => exact hm
  | cons x xs ih =>
    simp only [List.length_cons] at ha
    exact ih (writeCell_wf a x hm (by simp [inBounds]; omega)) (by omega)

/-- A block write leaves every address outside the block alone, in any memory. -/
theorem readCell_writeBytes_outside (xs : List Byte) (m : Memory) {a b : Nat} (h : b < a ∨ a + xs.length ≤ b) :
    readCell p (writeBytes p m a xs) b = readCell p m b := by
  induction xs generalizing m a with
  | nil => rfl
  | cons x xs ih =>
    simp only [List.length_cons] at h
    simp only [writeBytes]
    rw [ih _ (by omega), readCell_writeCell_ne _ _ (by omega)]

/-- A read inside a block just written gives the block's byte. -/
theorem readCell_writeBytes_inside (xs : List Byte) {m : Memory} {a k : Nat} (hm : m.wf p = true) (hk : k < xs.length)
    (ha : a + xs.length ≤ p.memSize) : readCell p (writeBytes p m a xs) (a + k) = xs[k] := by
  induction xs generalizing m a k with
  | nil => simp at hk
  | cons x xs ih =>
    simp only [List.length_cons] at hk ha
    have hw := writeCell_wf a x hm (by simp [inBounds]; omega)
    cases k with
    | zero =>
      simp only [writeBytes, List.getElem_cons_zero, Nat.add_zero]
      rw [readCell_writeBytes_outside xs _ (by omega), readCell_writeCell_same hm]
    | succ k =>
      simp only [writeBytes, List.getElem_cons_succ]
      rw [← ih (a := a + 1) (k := k) hw (by omega) (by omega)]
      congr 1
      omega

/-- The check of a block finds nothing exactly when the block is empty or ends inside memory. -/
theorem firstOutOfBounds_eq_none (base count : Nat) :
    firstOutOfBounds p base count = none ↔ count = 0 ∨ base + count ≤ p.memSize := by
  induction count generalizing base with
  | zero => simp [firstOutOfBounds]
  | succ n ih =>
    simp only [firstOutOfBounds, inBounds_iff]
    split
    · rw [ih]; omega
    · simp; omega

/-- What the check reports is the lowest address of the block that does not exist. -/
theorem firstOutOfBounds_eq_some {base count a : Nat} (h : firstOutOfBounds p base count = some a) :
    a = max base p.memSize ∧ a < base + count := by
  induction count generalizing base with
  | zero => simp [firstOutOfBounds] at h
  | succ n ih =>
    simp only [firstOutOfBounds, inBounds_iff] at h
    split at h
    · have := ih h; omega
    · simp at h; omega

/-- A reduced address exists (R55), if memory has an address at all. -/
theorem reduce_inBounds (h : 0 < p.memSize) (a : Nat) : inBounds p (reduce p a) = true := by
  rw [inBounds_iff]
  unfold reduce
  cases p.addrMode
  · exact Nat.mod_lt a h
  · exact Nat.lt_of_le_pred h (Nat.min_le_right a _)

end Sys2Proof.Machine
end

