-- ==== Sys2Proof/Laws/State.lean ====
section
/-! SUPPORT. One lemma for each field of State and each update of Machine/Ops.lean: what the field reads after the update. -/

namespace Sys2Proof.Machine

variable (s : State)

@[simp] theorem State.withV_v (x : List Byte) : (s.withV x).v = x := rfl
@[simp] theorem State.withV_i (x : List Byte) : (s.withV x).i = s.i := rfl
@[simp] theorem State.withV_pc (x : List Byte) : (s.withV x).pc = s.pc := rfl
@[simp] theorem State.withV_stack (x : List Byte) : (s.withV x).stack = s.stack := rfl
@[simp] theorem State.withV_sp (x : List Byte) : (s.withV x).sp = s.sp := rfl
@[simp] theorem State.withV_dt (x : List Byte) : (s.withV x).dt = s.dt := rfl
@[simp] theorem State.withV_st (x : List Byte) : (s.withV x).st = s.st := rfl
@[simp] theorem State.withV_keys (x : List Byte) : (s.withV x).keys = s.keys := rfl
@[simp] theorem State.withV_fb (x : List Byte) : (s.withV x).fb = s.fb := rfl
@[simp] theorem State.withV_mem (x : List Byte) : (s.withV x).mem = s.mem := rfl
@[simp] theorem State.withV_mode (x : List Byte) : (s.withV x).mode = s.mode := rfl
@[simp] theorem State.withV_waitX (x : List Byte) : (s.withV x).waitX = s.waitX := rfl
@[simp] theorem State.withV_waitKey (x : List Byte) : (s.withV x).waitKey = s.waitKey := rfl
@[simp] theorem State.withV_fault (x : List Byte) : (s.withV x).fault = s.fault := rfl
@[simp] theorem State.withV_unrec (x : List Byte) : (s.withV x).unrec = s.unrec := rfl
@[simp] theorem State.withV_loaded (x : List Byte) : (s.withV x).loaded = s.loaded := rfl
@[simp] theorem State.withV_params (x : List Byte) : (s.withV x).params = s.params := rfl
@[simp] theorem State.withV_slot (x : List Byte) : (s.withV x).slot = s.slot := rfl
@[simp] theorem State.withV_host (x : List Byte) : (s.withV x).host = s.host := rfl
@[simp] theorem State.withV_answer (x : List Byte) : (s.withV x).answer = s.answer := rfl
@[simp] theorem State.withV_draws (x : List Byte) : (s.withV x).draws = s.draws := rfl

@[simp] theorem State.withI_v (x : Nat) : (s.withI x).v = s.v := rfl
@[simp] theorem State.withI_i (x : Nat) : (s.withI x).i = x := rfl
@[simp] theorem State.withI_pc (x : Nat) : (s.withI x).pc = s.pc := rfl
@[simp] theorem State.withI_stack (x : Nat) : (s.withI x).stack = s.stack := rfl
@[simp] theorem State.withI_sp (x : Nat) : (s.withI x).sp = s.sp := rfl
@[simp] theorem State.withI_dt (x : Nat) : (s.withI x).dt = s.dt := rfl
@[simp] theorem State.withI_st (x : Nat) : (s.withI x).st = s.st := rfl
@[simp] theorem State.withI_keys (x : Nat) : (s.withI x).keys = s.keys := rfl
@[simp] theorem State.withI_fb (x : Nat) : (s.withI x).fb = s.fb := rfl
@[simp] theorem State.withI_mem (x : Nat) : (s.withI x).mem = s.mem := rfl
@[simp] theorem State.withI_mode (x : Nat) : (s.withI x).mode = s.mode := rfl
@[simp] theorem State.withI_waitX (x : Nat) : (s.withI x).waitX = s.waitX := rfl
@[simp] theorem State.withI_waitKey (x : Nat) : (s.withI x).waitKey = s.waitKey := rfl
@[simp] theorem State.withI_fault (x : Nat) : (s.withI x).fault = s.fault := rfl
@[simp] theorem State.withI_unrec (x : Nat) : (s.withI x).unrec = s.unrec := rfl
@[simp] theorem State.withI_loaded (x : Nat) : (s.withI x).loaded = s.loaded := rfl
@[simp] theorem State.withI_params (x : Nat) : (s.withI x).params = s.params := rfl
@[simp] theorem State.withI_slot (x : Nat) : (s.withI x).slot = s.slot := rfl
@[simp] theorem State.withI_host (x : Nat) : (s.withI x).host = s.host := rfl
@[simp] theorem State.withI_answer (x : Nat) : (s.withI x).answer = s.answer := rfl
@[simp] theorem State.withI_draws (x : Nat) : (s.withI x).draws = s.draws := rfl

@[simp] theorem State.withPc_v (x : Nat) : (s.withPc x).v = s.v := rfl
@[simp] theorem State.withPc_i (x : Nat) : (s.withPc x).i = s.i := rfl
@[simp] theorem State.withPc_pc (x : Nat) : (s.withPc x).pc = x := rfl
@[simp] theorem State.withPc_stack (x : Nat) : (s.withPc x).stack = s.stack := rfl
@[simp] theorem State.withPc_sp (x : Nat) : (s.withPc x).sp = s.sp := rfl
@[simp] theorem State.withPc_dt (x : Nat) : (s.withPc x).dt = s.dt := rfl
@[simp] theorem State.withPc_st (x : Nat) : (s.withPc x).st = s.st := rfl
@[simp] theorem State.withPc_keys (x : Nat) : (s.withPc x).keys = s.keys := rfl
@[simp] theorem State.withPc_fb (x : Nat) : (s.withPc x).fb = s.fb := rfl
@[simp] theorem State.withPc_mem (x : Nat) : (s.withPc x).mem = s.mem := rfl
@[simp] theorem State.withPc_mode (x : Nat) : (s.withPc x).mode = s.mode := rfl
@[simp] theorem State.withPc_waitX (x : Nat) : (s.withPc x).waitX = s.waitX := rfl
@[simp] theorem State.withPc_waitKey (x : Nat) : (s.withPc x).waitKey = s.waitKey := rfl
@[simp] theorem State.withPc_fault (x : Nat) : (s.withPc x).fault = s.fault := rfl
@[simp] theorem State.withPc_unrec (x : Nat) : (s.withPc x).unrec = s.unrec := rfl
@[simp] theorem State.withPc_loaded (x : Nat) : (s.withPc x).loaded = s.loaded := rfl
@[simp] theorem State.withPc_params (x : Nat) : (s.withPc x).params = s.params := rfl
@[simp] theorem State.withPc_slot (x : Nat) : (s.withPc x).slot = s.slot := rfl
@[simp] theorem State.withPc_host (x : Nat) : (s.withPc x).host = s.host := rfl
@[simp] theorem State.withPc_answer (x : Nat) : (s.withPc x).answer = s.answer := rfl
@[simp] theorem State.withPc_draws (x : Nat) : (s.withPc x).draws = s.draws := rfl

@[simp] theorem State.withStack_v (x : List Nat) (n : Nat) : (s.withStack x n).v = s.v := rfl
@[simp] theorem State.withStack_i (x : List Nat) (n : Nat) : (s.withStack x n).i = s.i := rfl
@[simp] theorem State.withStack_pc (x : List Nat) (n : Nat) : (s.withStack x n).pc = s.pc := rfl
@[simp] theorem State.withStack_stack (x : List Nat) (n : Nat) : (s.withStack x n).stack = x := rfl
@[simp] theorem State.withStack_sp (x : List Nat) (n : Nat) : (s.withStack x n).sp = n := rfl
@[simp] theorem State.withStack_dt (x : List Nat) (n : Nat) : (s.withStack x n).dt = s.dt := rfl
@[simp] theorem State.withStack_st (x : List Nat) (n : Nat) : (s.withStack x n).st = s.st := rfl
@[simp] theorem State.withStack_keys (x : List Nat) (n : Nat) : (s.withStack x n).keys = s.keys := rfl
@[simp] theorem State.withStack_fb (x : List Nat) (n : Nat) : (s.withStack x n).fb = s.fb := rfl
@[simp] theorem State.withStack_mem (x : List Nat) (n : Nat) : (s.withStack x n).mem = s.mem := rfl
@[simp] theorem State.withStack_mode (x : List Nat) (n : Nat) : (s.withStack x n).mode = s.mode := rfl
@[simp] theorem State.withStack_waitX (x : List Nat) (n : Nat) : (s.withStack x n).waitX = s.waitX := rfl
@[simp] theorem State.withStack_waitKey (x : List Nat) (n : Nat) : (s.withStack x n).waitKey = s.waitKey := rfl
@[simp] theorem State.withStack_fault (x : List Nat) (n : Nat) : (s.withStack x n).fault = s.fault := rfl
@[simp] theorem State.withStack_unrec (x : List Nat) (n : Nat) : (s.withStack x n).unrec = s.unrec := rfl
@[simp] theorem State.withStack_loaded (x : List Nat) (n : Nat) : (s.withStack x n).loaded = s.loaded := rfl
@[simp] theorem State.withStack_params (x : List Nat) (n : Nat) : (s.withStack x n).params = s.params := rfl
@[simp] theorem State.withStack_slot (x : List Nat) (n : Nat) : (s.withStack x n).slot = s.slot := rfl
@[simp] theorem State.withStack_host (x : List Nat) (n : Nat) : (s.withStack x n).host = s.host := rfl
@[simp] theorem State.withStack_answer (x : List Nat) (n : Nat) : (s.withStack x n).answer = s.answer := rfl
@[simp] theorem State.withStack_draws (x : List Nat) (n : Nat) : (s.withStack x n).draws = s.draws := rfl

@[simp] theorem State.withDt_v (x : Byte) : (s.withDt x).v = s.v := rfl
@[simp] theorem State.withDt_i (x : Byte) : (s.withDt x).i = s.i := rfl
@[simp] theorem State.withDt_pc (x : Byte) : (s.withDt x).pc = s.pc := rfl
@[simp] theorem State.withDt_stack (x : Byte) : (s.withDt x).stack = s.stack := rfl
@[simp] theorem State.withDt_sp (x : Byte) : (s.withDt x).sp = s.sp := rfl
@[simp] theorem State.withDt_dt (x : Byte) : (s.withDt x).dt = x := rfl
@[simp] theorem State.withDt_st (x : Byte) : (s.withDt x).st = s.st := rfl
@[simp] theorem State.withDt_keys (x : Byte) : (s.withDt x).keys = s.keys := rfl
@[simp] theorem State.withDt_fb (x : Byte) : (s.withDt x).fb = s.fb := rfl
@[simp] theorem State.withDt_mem (x : Byte) : (s.withDt x).mem = s.mem := rfl
@[simp] theorem State.withDt_mode (x : Byte) : (s.withDt x).mode = s.mode := rfl
@[simp] theorem State.withDt_waitX (x : Byte) : (s.withDt x).waitX = s.waitX := rfl
@[simp] theorem State.withDt_waitKey (x : Byte) : (s.withDt x).waitKey = s.waitKey := rfl
@[simp] theorem State.withDt_fault (x : Byte) : (s.withDt x).fault = s.fault := rfl
@[simp] theorem State.withDt_unrec (x : Byte) : (s.withDt x).unrec = s.unrec := rfl
@[simp] theorem State.withDt_loaded (x : Byte) : (s.withDt x).loaded = s.loaded := rfl
@[simp] theorem State.withDt_params (x : Byte) : (s.withDt x).params = s.params := rfl
@[simp] theorem State.withDt_slot (x : Byte) : (s.withDt x).slot = s.slot := rfl
@[simp] theorem State.withDt_host (x : Byte) : (s.withDt x).host = s.host := rfl
@[simp] theorem State.withDt_answer (x : Byte) : (s.withDt x).answer = s.answer := rfl
@[simp] theorem State.withDt_draws (x : Byte) : (s.withDt x).draws = s.draws := rfl

@[simp] theorem State.withSt_v (x : Byte) : (s.withSt x).v = s.v := rfl
@[simp] theorem State.withSt_i (x : Byte) : (s.withSt x).i = s.i := rfl
@[simp] theorem State.withSt_pc (x : Byte) : (s.withSt x).pc = s.pc := rfl
@[simp] theorem State.withSt_stack (x : Byte) : (s.withSt x).stack = s.stack := rfl
@[simp] theorem State.withSt_sp (x : Byte) : (s.withSt x).sp = s.sp := rfl
@[simp] theorem State.withSt_dt (x : Byte) : (s.withSt x).dt = s.dt := rfl
@[simp] theorem State.withSt_st (x : Byte) : (s.withSt x).st = x := rfl
@[simp] theorem State.withSt_keys (x : Byte) : (s.withSt x).keys = s.keys := rfl
@[simp] theorem State.withSt_fb (x : Byte) : (s.withSt x).fb = s.fb := rfl
@[simp] theorem State.withSt_mem (x : Byte) : (s.withSt x).mem = s.mem := rfl
@[simp] theorem State.withSt_mode (x : Byte) : (s.withSt x).mode = s.mode := rfl
@[simp] theorem State.withSt_waitX (x : Byte) : (s.withSt x).waitX = s.waitX := rfl
@[simp] theorem State.withSt_waitKey (x : Byte) : (s.withSt x).waitKey = s.waitKey := rfl
@[simp] theorem State.withSt_fault (x : Byte) : (s.withSt x).fault = s.fault := rfl
@[simp] theorem State.withSt_unrec (x : Byte) : (s.withSt x).unrec = s.unrec := rfl
@[simp] theorem State.withSt_loaded (x : Byte) : (s.withSt x).loaded = s.loaded := rfl
@[simp] theorem State.withSt_params (x : Byte) : (s.withSt x).params = s.params := rfl
@[simp] theorem State.withSt_slot (x : Byte) : (s.withSt x).slot = s.slot := rfl
@[simp] theorem State.withSt_host (x : Byte) : (s.withSt x).host = s.host := rfl
@[simp] theorem State.withSt_answer (x : Byte) : (s.withSt x).answer = s.answer := rfl
@[simp] theorem State.withSt_draws (x : Byte) : (s.withSt x).draws = s.draws := rfl

@[simp] theorem State.withKeys_v (x : List Bool) : (s.withKeys x).v = s.v := rfl
@[simp] theorem State.withKeys_i (x : List Bool) : (s.withKeys x).i = s.i := rfl
@[simp] theorem State.withKeys_pc (x : List Bool) : (s.withKeys x).pc = s.pc := rfl
@[simp] theorem State.withKeys_stack (x : List Bool) : (s.withKeys x).stack = s.stack := rfl
@[simp] theorem State.withKeys_sp (x : List Bool) : (s.withKeys x).sp = s.sp := rfl
@[simp] theorem State.withKeys_dt (x : List Bool) : (s.withKeys x).dt = s.dt := rfl
@[simp] theorem State.withKeys_st (x : List Bool) : (s.withKeys x).st = s.st := rfl
@[simp] theorem State.withKeys_keys (x : List Bool) : (s.withKeys x).keys = x := rfl
@[simp] theorem State.withKeys_fb (x : List Bool) : (s.withKeys x).fb = s.fb := rfl
@[simp] theorem State.withKeys_mem (x : List Bool) : (s.withKeys x).mem = s.mem := rfl
@[simp] theorem State.withKeys_mode (x : List Bool) : (s.withKeys x).mode = s.mode := rfl
@[simp] theorem State.withKeys_waitX (x : List Bool) : (s.withKeys x).waitX = s.waitX := rfl
@[simp] theorem State.withKeys_waitKey (x : List Bool) : (s.withKeys x).waitKey = s.waitKey := rfl
@[simp] theorem State.withKeys_fault (x : List Bool) : (s.withKeys x).fault = s.fault := rfl
@[simp] theorem State.withKeys_unrec (x : List Bool) : (s.withKeys x).unrec = s.unrec := rfl
@[simp] theorem State.withKeys_loaded (x : List Bool) : (s.withKeys x).loaded = s.loaded := rfl
@[simp] theorem State.withKeys_params (x : List Bool) : (s.withKeys x).params = s.params := rfl
@[simp] theorem State.withKeys_slot (x : List Bool) : (s.withKeys x).slot = s.slot := rfl
@[simp] theorem State.withKeys_host (x : List Bool) : (s.withKeys x).host = s.host := rfl
@[simp] theorem State.withKeys_answer (x : List Bool) : (s.withKeys x).answer = s.answer := rfl
@[simp] theorem State.withKeys_draws (x : List Bool) : (s.withKeys x).draws = s.draws := rfl

@[simp] theorem State.withFb_v (x : Frame) : (s.withFb x).v = s.v := rfl
@[simp] theorem State.withFb_i (x : Frame) : (s.withFb x).i = s.i := rfl
@[simp] theorem State.withFb_pc (x : Frame) : (s.withFb x).pc = s.pc := rfl
@[simp] theorem State.withFb_stack (x : Frame) : (s.withFb x).stack = s.stack := rfl
@[simp] theorem State.withFb_sp (x : Frame) : (s.withFb x).sp = s.sp := rfl
@[simp] theorem State.withFb_dt (x : Frame) : (s.withFb x).dt = s.dt := rfl
@[simp] theorem State.withFb_st (x : Frame) : (s.withFb x).st = s.st := rfl
@[simp] theorem State.withFb_keys (x : Frame) : (s.withFb x).keys = s.keys := rfl
@[simp] theorem State.withFb_fb (x : Frame) : (s.withFb x).fb = x := rfl
@[simp] theorem State.withFb_mem (x : Frame) : (s.withFb x).mem = s.mem := rfl
@[simp] theorem State.withFb_mode (x : Frame) : (s.withFb x).mode = s.mode := rfl
@[simp] theorem State.withFb_waitX (x : Frame) : (s.withFb x).waitX = s.waitX := rfl
@[simp] theorem State.withFb_waitKey (x : Frame) : (s.withFb x).waitKey = s.waitKey := rfl
@[simp] theorem State.withFb_fault (x : Frame) : (s.withFb x).fault = s.fault := rfl
@[simp] theorem State.withFb_unrec (x : Frame) : (s.withFb x).unrec = s.unrec := rfl
@[simp] theorem State.withFb_loaded (x : Frame) : (s.withFb x).loaded = s.loaded := rfl
@[simp] theorem State.withFb_params (x : Frame) : (s.withFb x).params = s.params := rfl
@[simp] theorem State.withFb_slot (x : Frame) : (s.withFb x).slot = s.slot := rfl
@[simp] theorem State.withFb_host (x : Frame) : (s.withFb x).host = s.host := rfl
@[simp] theorem State.withFb_answer (x : Frame) : (s.withFb x).answer = s.answer := rfl
@[simp] theorem State.withFb_draws (x : Frame) : (s.withFb x).draws = s.draws := rfl

@[simp] theorem State.withMem_v (x : Memory) : (s.withMem x).v = s.v := rfl
@[simp] theorem State.withMem_i (x : Memory) : (s.withMem x).i = s.i := rfl
@[simp] theorem State.withMem_pc (x : Memory) : (s.withMem x).pc = s.pc := rfl
@[simp] theorem State.withMem_stack (x : Memory) : (s.withMem x).stack = s.stack := rfl
@[simp] theorem State.withMem_sp (x : Memory) : (s.withMem x).sp = s.sp := rfl
@[simp] theorem State.withMem_dt (x : Memory) : (s.withMem x).dt = s.dt := rfl
@[simp] theorem State.withMem_st (x : Memory) : (s.withMem x).st = s.st := rfl
@[simp] theorem State.withMem_keys (x : Memory) : (s.withMem x).keys = s.keys := rfl
@[simp] theorem State.withMem_fb (x : Memory) : (s.withMem x).fb = s.fb := rfl
@[simp] theorem State.withMem_mem (x : Memory) : (s.withMem x).mem = x := rfl
@[simp] theorem State.withMem_mode (x : Memory) : (s.withMem x).mode = s.mode := rfl
@[simp] theorem State.withMem_waitX (x : Memory) : (s.withMem x).waitX = s.waitX := rfl
@[simp] theorem State.withMem_waitKey (x : Memory) : (s.withMem x).waitKey = s.waitKey := rfl
@[simp] theorem State.withMem_fault (x : Memory) : (s.withMem x).fault = s.fault := rfl
@[simp] theorem State.withMem_unrec (x : Memory) : (s.withMem x).unrec = s.unrec := rfl
@[simp] theorem State.withMem_loaded (x : Memory) : (s.withMem x).loaded = s.loaded := rfl
@[simp] theorem State.withMem_params (x : Memory) : (s.withMem x).params = s.params := rfl
@[simp] theorem State.withMem_slot (x : Memory) : (s.withMem x).slot = s.slot := rfl
@[simp] theorem State.withMem_host (x : Memory) : (s.withMem x).host = s.host := rfl
@[simp] theorem State.withMem_answer (x : Memory) : (s.withMem x).answer = s.answer := rfl
@[simp] theorem State.withMem_draws (x : Memory) : (s.withMem x).draws = s.draws := rfl

@[simp] theorem State.withMode_v (x : Mode) : (s.withMode x).v = s.v := rfl
@[simp] theorem State.withMode_i (x : Mode) : (s.withMode x).i = s.i := rfl
@[simp] theorem State.withMode_pc (x : Mode) : (s.withMode x).pc = s.pc := rfl
@[simp] theorem State.withMode_stack (x : Mode) : (s.withMode x).stack = s.stack := rfl
@[simp] theorem State.withMode_sp (x : Mode) : (s.withMode x).sp = s.sp := rfl
@[simp] theorem State.withMode_dt (x : Mode) : (s.withMode x).dt = s.dt := rfl
@[simp] theorem State.withMode_st (x : Mode) : (s.withMode x).st = s.st := rfl
@[simp] theorem State.withMode_keys (x : Mode) : (s.withMode x).keys = s.keys := rfl
@[simp] theorem State.withMode_fb (x : Mode) : (s.withMode x).fb = s.fb := rfl
@[simp] theorem State.withMode_mem (x : Mode) : (s.withMode x).mem = s.mem := rfl
@[simp] theorem State.withMode_mode (x : Mode) : (s.withMode x).mode = x := rfl
@[simp] theorem State.withMode_waitX (x : Mode) : (s.withMode x).waitX = s.waitX := rfl
@[simp] theorem State.withMode_waitKey (x : Mode) : (s.withMode x).waitKey = s.waitKey := rfl
@[simp] theorem State.withMode_fault (x : Mode) : (s.withMode x).fault = s.fault := rfl
@[simp] theorem State.withMode_unrec (x : Mode) : (s.withMode x).unrec = s.unrec := rfl
@[simp] theorem State.withMode_loaded (x : Mode) : (s.withMode x).loaded = s.loaded := rfl
@[simp] theorem State.withMode_params (x : Mode) : (s.withMode x).params = s.params := rfl
@[simp] theorem State.withMode_slot (x : Mode) : (s.withMode x).slot = s.slot := rfl
@[simp] theorem State.withMode_host (x : Mode) : (s.withMode x).host = s.host := rfl
@[simp] theorem State.withMode_answer (x : Mode) : (s.withMode x).answer = s.answer := rfl
@[simp] theorem State.withMode_draws (x : Mode) : (s.withMode x).draws = s.draws := rfl

@[simp] theorem State.withWait_v (x : Reg) (k : Option Nat) : (s.withWait x k).v = s.v := rfl
@[simp] theorem State.withWait_i (x : Reg) (k : Option Nat) : (s.withWait x k).i = s.i := rfl
@[simp] theorem State.withWait_pc (x : Reg) (k : Option Nat) : (s.withWait x k).pc = s.pc := rfl
@[simp] theorem State.withWait_stack (x : Reg) (k : Option Nat) : (s.withWait x k).stack = s.stack := rfl
@[simp] theorem State.withWait_sp (x : Reg) (k : Option Nat) : (s.withWait x k).sp = s.sp := rfl
@[simp] theorem State.withWait_dt (x : Reg) (k : Option Nat) : (s.withWait x k).dt = s.dt := rfl
@[simp] theorem State.withWait_st (x : Reg) (k : Option Nat) : (s.withWait x k).st = s.st := rfl
@[simp] theorem State.withWait_keys (x : Reg) (k : Option Nat) : (s.withWait x k).keys = s.keys := rfl
@[simp] theorem State.withWait_fb (x : Reg) (k : Option Nat) : (s.withWait x k).fb = s.fb := rfl
@[simp] theorem State.withWait_mem (x : Reg) (k : Option Nat) : (s.withWait x k).mem = s.mem := rfl
@[simp] theorem State.withWait_mode (x : Reg) (k : Option Nat) : (s.withWait x k).mode = s.mode := rfl
@[simp] theorem State.withWait_waitX (x : Reg) (k : Option Nat) : (s.withWait x k).waitX = x := rfl
@[simp] theorem State.withWait_waitKey (x : Reg) (k : Option Nat) : (s.withWait x k).waitKey = k := rfl
@[simp] theorem State.withWait_fault (x : Reg) (k : Option Nat) : (s.withWait x k).fault = s.fault := rfl
@[simp] theorem State.withWait_unrec (x : Reg) (k : Option Nat) : (s.withWait x k).unrec = s.unrec := rfl
@[simp] theorem State.withWait_loaded (x : Reg) (k : Option Nat) : (s.withWait x k).loaded = s.loaded := rfl
@[simp] theorem State.withWait_params (x : Reg) (k : Option Nat) : (s.withWait x k).params = s.params := rfl
@[simp] theorem State.withWait_slot (x : Reg) (k : Option Nat) : (s.withWait x k).slot = s.slot := rfl
@[simp] theorem State.withWait_host (x : Reg) (k : Option Nat) : (s.withWait x k).host = s.host := rfl
@[simp] theorem State.withWait_answer (x : Reg) (k : Option Nat) : (s.withWait x k).answer = s.answer := rfl
@[simp] theorem State.withWait_draws (x : Reg) (k : Option Nat) : (s.withWait x k).draws = s.draws := rfl

@[simp] theorem State.withFault_v (x : Option FaultReport) : (s.withFault x).v = s.v := rfl
@[simp] theorem State.withFault_i (x : Option FaultReport) : (s.withFault x).i = s.i := rfl
@[simp] theorem State.withFault_pc (x : Option FaultReport) : (s.withFault x).pc = s.pc := rfl
@[simp] theorem State.withFault_stack (x : Option FaultReport) : (s.withFault x).stack = s.stack := rfl
@[simp] theorem State.withFault_sp (x : Option FaultReport) : (s.withFault x).sp = s.sp := rfl
@[simp] theorem State.withFault_dt (x : Option FaultReport) : (s.withFault x).dt = s.dt := rfl
@[simp] theorem State.withFault_st (x : Option FaultReport) : (s.withFault x).st = s.st := rfl
@[simp] theorem State.withFault_keys (x : Option FaultReport) : (s.withFault x).keys = s.keys := rfl
@[simp] theorem State.withFault_fb (x : Option FaultReport) : (s.withFault x).fb = s.fb := rfl
@[simp] theorem State.withFault_mem (x : Option FaultReport) : (s.withFault x).mem = s.mem := rfl
@[simp] theorem State.withFault_mode (x : Option FaultReport) : (s.withFault x).mode = s.mode := rfl
@[simp] theorem State.withFault_waitX (x : Option FaultReport) : (s.withFault x).waitX = s.waitX := rfl
@[simp] theorem State.withFault_waitKey (x : Option FaultReport) : (s.withFault x).waitKey = s.waitKey := rfl
@[simp] theorem State.withFault_fault (x : Option FaultReport) : (s.withFault x).fault = x := rfl
@[simp] theorem State.withFault_unrec (x : Option FaultReport) : (s.withFault x).unrec = s.unrec := rfl
@[simp] theorem State.withFault_loaded (x : Option FaultReport) : (s.withFault x).loaded = s.loaded := rfl
@[simp] theorem State.withFault_params (x : Option FaultReport) : (s.withFault x).params = s.params := rfl
@[simp] theorem State.withFault_slot (x : Option FaultReport) : (s.withFault x).slot = s.slot := rfl
@[simp] theorem State.withFault_host (x : Option FaultReport) : (s.withFault x).host = s.host := rfl
@[simp] theorem State.withFault_answer (x : Option FaultReport) : (s.withFault x).answer = s.answer := rfl
@[simp] theorem State.withFault_draws (x : Option FaultReport) : (s.withFault x).draws = s.draws := rfl

@[simp] theorem State.withUnrec_v (x : Nat) : (s.withUnrec x).v = s.v := rfl
@[simp] theorem State.withUnrec_i (x : Nat) : (s.withUnrec x).i = s.i := rfl
@[simp] theorem State.withUnrec_pc (x : Nat) : (s.withUnrec x).pc = s.pc := rfl
@[simp] theorem State.withUnrec_stack (x : Nat) : (s.withUnrec x).stack = s.stack := rfl
@[simp] theorem State.withUnrec_sp (x : Nat) : (s.withUnrec x).sp = s.sp := rfl
@[simp] theorem State.withUnrec_dt (x : Nat) : (s.withUnrec x).dt = s.dt := rfl
@[simp] theorem State.withUnrec_st (x : Nat) : (s.withUnrec x).st = s.st := rfl
@[simp] theorem State.withUnrec_keys (x : Nat) : (s.withUnrec x).keys = s.keys := rfl
@[simp] theorem State.withUnrec_fb (x : Nat) : (s.withUnrec x).fb = s.fb := rfl
@[simp] theorem State.withUnrec_mem (x : Nat) : (s.withUnrec x).mem = s.mem := rfl
@[simp] theorem State.withUnrec_mode (x : Nat) : (s.withUnrec x).mode = s.mode := rfl
@[simp] theorem State.withUnrec_waitX (x : Nat) : (s.withUnrec x).waitX = s.waitX := rfl
@[simp] theorem State.withUnrec_waitKey (x : Nat) : (s.withUnrec x).waitKey = s.waitKey := rfl
@[simp] theorem State.withUnrec_fault (x : Nat) : (s.withUnrec x).fault = s.fault := rfl
@[simp] theorem State.withUnrec_unrec (x : Nat) : (s.withUnrec x).unrec = x := rfl
@[simp] theorem State.withUnrec_loaded (x : Nat) : (s.withUnrec x).loaded = s.loaded := rfl
@[simp] theorem State.withUnrec_params (x : Nat) : (s.withUnrec x).params = s.params := rfl
@[simp] theorem State.withUnrec_slot (x : Nat) : (s.withUnrec x).slot = s.slot := rfl
@[simp] theorem State.withUnrec_host (x : Nat) : (s.withUnrec x).host = s.host := rfl
@[simp] theorem State.withUnrec_answer (x : Nat) : (s.withUnrec x).answer = s.answer := rfl
@[simp] theorem State.withUnrec_draws (x : Nat) : (s.withUnrec x).draws = s.draws := rfl

@[simp] theorem State.withLoaded_v (x : Bool) : (s.withLoaded x).v = s.v := rfl
@[simp] theorem State.withLoaded_i (x : Bool) : (s.withLoaded x).i = s.i := rfl
@[simp] theorem State.withLoaded_pc (x : Bool) : (s.withLoaded x).pc = s.pc := rfl
@[simp] theorem State.withLoaded_stack (x : Bool) : (s.withLoaded x).stack = s.stack := rfl
@[simp] theorem State.withLoaded_sp (x : Bool) : (s.withLoaded x).sp = s.sp := rfl
@[simp] theorem State.withLoaded_dt (x : Bool) : (s.withLoaded x).dt = s.dt := rfl
@[simp] theorem State.withLoaded_st (x : Bool) : (s.withLoaded x).st = s.st := rfl
@[simp] theorem State.withLoaded_keys (x : Bool) : (s.withLoaded x).keys = s.keys := rfl
@[simp] theorem State.withLoaded_fb (x : Bool) : (s.withLoaded x).fb = s.fb := rfl
@[simp] theorem State.withLoaded_mem (x : Bool) : (s.withLoaded x).mem = s.mem := rfl
@[simp] theorem State.withLoaded_mode (x : Bool) : (s.withLoaded x).mode = s.mode := rfl
@[simp] theorem State.withLoaded_waitX (x : Bool) : (s.withLoaded x).waitX = s.waitX := rfl
@[simp] theorem State.withLoaded_waitKey (x : Bool) : (s.withLoaded x).waitKey = s.waitKey := rfl
@[simp] theorem State.withLoaded_fault (x : Bool) : (s.withLoaded x).fault = s.fault := rfl
@[simp] theorem State.withLoaded_unrec (x : Bool) : (s.withLoaded x).unrec = s.unrec := rfl
@[simp] theorem State.withLoaded_loaded (x : Bool) : (s.withLoaded x).loaded = x := rfl
@[simp] theorem State.withLoaded_params (x : Bool) : (s.withLoaded x).params = s.params := rfl
@[simp] theorem State.withLoaded_slot (x : Bool) : (s.withLoaded x).slot = s.slot := rfl
@[simp] theorem State.withLoaded_host (x : Bool) : (s.withLoaded x).host = s.host := rfl
@[simp] theorem State.withLoaded_answer (x : Bool) : (s.withLoaded x).answer = s.answer := rfl
@[simp] theorem State.withLoaded_draws (x : Bool) : (s.withLoaded x).draws = s.draws := rfl

@[simp] theorem State.withParams_v (x : Config.Params) : (s.withParams x).v = s.v := rfl
@[simp] theorem State.withParams_i (x : Config.Params) : (s.withParams x).i = s.i := rfl
@[simp] theorem State.withParams_pc (x : Config.Params) : (s.withParams x).pc = s.pc := rfl
@[simp] theorem State.withParams_stack (x : Config.Params) : (s.withParams x).stack = s.stack := rfl
@[simp] theorem State.withParams_sp (x : Config.Params) : (s.withParams x).sp = s.sp := rfl
@[simp] theorem State.withParams_dt (x : Config.Params) : (s.withParams x).dt = s.dt := rfl
@[simp] theorem State.withParams_st (x : Config.Params) : (s.withParams x).st = s.st := rfl
@[simp] theorem State.withParams_keys (x : Config.Params) : (s.withParams x).keys = s.keys := rfl
@[simp] theorem State.withParams_fb (x : Config.Params) : (s.withParams x).fb = s.fb := rfl
@[simp] theorem State.withParams_mem (x : Config.Params) : (s.withParams x).mem = s.mem := rfl
@[simp] theorem State.withParams_mode (x : Config.Params) : (s.withParams x).mode = s.mode := rfl
@[simp] theorem State.withParams_waitX (x : Config.Params) : (s.withParams x).waitX = s.waitX := rfl
@[simp] theorem State.withParams_waitKey (x : Config.Params) : (s.withParams x).waitKey = s.waitKey := rfl
@[simp] theorem State.withParams_fault (x : Config.Params) : (s.withParams x).fault = s.fault := rfl
@[simp] theorem State.withParams_unrec (x : Config.Params) : (s.withParams x).unrec = s.unrec := rfl
@[simp] theorem State.withParams_loaded (x : Config.Params) : (s.withParams x).loaded = s.loaded := rfl
@[simp] theorem State.withParams_params (x : Config.Params) : (s.withParams x).params = x := rfl
@[simp] theorem State.withParams_slot (x : Config.Params) : (s.withParams x).slot = s.slot := rfl
@[simp] theorem State.withParams_host (x : Config.Params) : (s.withParams x).host = s.host := rfl
@[simp] theorem State.withParams_answer (x : Config.Params) : (s.withParams x).answer = s.answer := rfl
@[simp] theorem State.withParams_draws (x : Config.Params) : (s.withParams x).draws = s.draws := rfl

@[simp] theorem State.withSlot_v (x : Option Nat) : (s.withSlot x).v = s.v := rfl
@[simp] theorem State.withSlot_i (x : Option Nat) : (s.withSlot x).i = s.i := rfl
@[simp] theorem State.withSlot_pc (x : Option Nat) : (s.withSlot x).pc = s.pc := rfl
@[simp] theorem State.withSlot_stack (x : Option Nat) : (s.withSlot x).stack = s.stack := rfl
@[simp] theorem State.withSlot_sp (x : Option Nat) : (s.withSlot x).sp = s.sp := rfl
@[simp] theorem State.withSlot_dt (x : Option Nat) : (s.withSlot x).dt = s.dt := rfl
@[simp] theorem State.withSlot_st (x : Option Nat) : (s.withSlot x).st = s.st := rfl
@[simp] theorem State.withSlot_keys (x : Option Nat) : (s.withSlot x).keys = s.keys := rfl
@[simp] theorem State.withSlot_fb (x : Option Nat) : (s.withSlot x).fb = s.fb := rfl
@[simp] theorem State.withSlot_mem (x : Option Nat) : (s.withSlot x).mem = s.mem := rfl
@[simp] theorem State.withSlot_mode (x : Option Nat) : (s.withSlot x).mode = s.mode := rfl
@[simp] theorem State.withSlot_waitX (x : Option Nat) : (s.withSlot x).waitX = s.waitX := rfl
@[simp] theorem State.withSlot_waitKey (x : Option Nat) : (s.withSlot x).waitKey = s.waitKey := rfl
@[simp] theorem State.withSlot_fault (x : Option Nat) : (s.withSlot x).fault = s.fault := rfl
@[simp] theorem State.withSlot_unrec (x : Option Nat) : (s.withSlot x).unrec = s.unrec := rfl
@[simp] theorem State.withSlot_loaded (x : Option Nat) : (s.withSlot x).loaded = s.loaded := rfl
@[simp] theorem State.withSlot_params (x : Option Nat) : (s.withSlot x).params = s.params := rfl
@[simp] theorem State.withSlot_slot (x : Option Nat) : (s.withSlot x).slot = x := rfl
@[simp] theorem State.withSlot_host (x : Option Nat) : (s.withSlot x).host = s.host := rfl
@[simp] theorem State.withSlot_answer (x : Option Nat) : (s.withSlot x).answer = s.answer := rfl
@[simp] theorem State.withSlot_draws (x : Option Nat) : (s.withSlot x).draws = s.draws := rfl

@[simp] theorem State.withHost_v (x : List HostCommand) : (s.withHost x).v = s.v := rfl
@[simp] theorem State.withHost_i (x : List HostCommand) : (s.withHost x).i = s.i := rfl
@[simp] theorem State.withHost_pc (x : List HostCommand) : (s.withHost x).pc = s.pc := rfl
@[simp] theorem State.withHost_stack (x : List HostCommand) : (s.withHost x).stack = s.stack := rfl
@[simp] theorem State.withHost_sp (x : List HostCommand) : (s.withHost x).sp = s.sp := rfl
@[simp] theorem State.withHost_dt (x : List HostCommand) : (s.withHost x).dt = s.dt := rfl
@[simp] theorem State.withHost_st (x : List HostCommand) : (s.withHost x).st = s.st := rfl
@[simp] theorem State.withHost_keys (x : List HostCommand) : (s.withHost x).keys = s.keys := rfl
@[simp] theorem State.withHost_fb (x : List HostCommand) : (s.withHost x).fb = s.fb := rfl
@[simp] theorem State.withHost_mem (x : List HostCommand) : (s.withHost x).mem = s.mem := rfl
@[simp] theorem State.withHost_mode (x : List HostCommand) : (s.withHost x).mode = s.mode := rfl
@[simp] theorem State.withHost_waitX (x : List HostCommand) : (s.withHost x).waitX = s.waitX := rfl
@[simp] theorem State.withHost_waitKey (x : List HostCommand) : (s.withHost x).waitKey = s.waitKey := rfl
@[simp] theorem State.withHost_fault (x : List HostCommand) : (s.withHost x).fault = s.fault := rfl
@[simp] theorem State.withHost_unrec (x : List HostCommand) : (s.withHost x).unrec = s.unrec := rfl
@[simp] theorem State.withHost_loaded (x : List HostCommand) : (s.withHost x).loaded = s.loaded := rfl
@[simp] theorem State.withHost_params (x : List HostCommand) : (s.withHost x).params = s.params := rfl
@[simp] theorem State.withHost_slot (x : List HostCommand) : (s.withHost x).slot = s.slot := rfl
@[simp] theorem State.withHost_host (x : List HostCommand) : (s.withHost x).host = x := rfl
@[simp] theorem State.withHost_answer (x : List HostCommand) : (s.withHost x).answer = s.answer := rfl
@[simp] theorem State.withHost_draws (x : List HostCommand) : (s.withHost x).draws = s.draws := rfl

@[simp] theorem State.withAnswer_v (x : Option LoadAnswer) : (s.withAnswer x).v = s.v := rfl
@[simp] theorem State.withAnswer_i (x : Option LoadAnswer) : (s.withAnswer x).i = s.i := rfl
@[simp] theorem State.withAnswer_pc (x : Option LoadAnswer) : (s.withAnswer x).pc = s.pc := rfl
@[simp] theorem State.withAnswer_stack (x : Option LoadAnswer) : (s.withAnswer x).stack = s.stack := rfl
@[simp] theorem State.withAnswer_sp (x : Option LoadAnswer) : (s.withAnswer x).sp = s.sp := rfl
@[simp] theorem State.withAnswer_dt (x : Option LoadAnswer) : (s.withAnswer x).dt = s.dt := rfl
@[simp] theorem State.withAnswer_st (x : Option LoadAnswer) : (s.withAnswer x).st = s.st := rfl
@[simp] theorem State.withAnswer_keys (x : Option LoadAnswer) : (s.withAnswer x).keys = s.keys := rfl
@[simp] theorem State.withAnswer_fb (x : Option LoadAnswer) : (s.withAnswer x).fb = s.fb := rfl
@[simp] theorem State.withAnswer_mem (x : Option LoadAnswer) : (s.withAnswer x).mem = s.mem := rfl
@[simp] theorem State.withAnswer_mode (x : Option LoadAnswer) : (s.withAnswer x).mode = s.mode := rfl
@[simp] theorem State.withAnswer_waitX (x : Option LoadAnswer) : (s.withAnswer x).waitX = s.waitX := rfl
@[simp] theorem State.withAnswer_waitKey (x : Option LoadAnswer) : (s.withAnswer x).waitKey = s.waitKey := rfl
@[simp] theorem State.withAnswer_fault (x : Option LoadAnswer) : (s.withAnswer x).fault = s.fault := rfl
@[simp] theorem State.withAnswer_unrec (x : Option LoadAnswer) : (s.withAnswer x).unrec = s.unrec := rfl
@[simp] theorem State.withAnswer_loaded (x : Option LoadAnswer) : (s.withAnswer x).loaded = s.loaded := rfl
@[simp] theorem State.withAnswer_params (x : Option LoadAnswer) : (s.withAnswer x).params = s.params := rfl
@[simp] theorem State.withAnswer_slot (x : Option LoadAnswer) : (s.withAnswer x).slot = s.slot := rfl
@[simp] theorem State.withAnswer_host (x : Option LoadAnswer) : (s.withAnswer x).host = s.host := rfl
@[simp] theorem State.withAnswer_answer (x : Option LoadAnswer) : (s.withAnswer x).answer = x := rfl
@[simp] theorem State.withAnswer_draws (x : Option LoadAnswer) : (s.withAnswer x).draws = s.draws := rfl

@[simp] theorem State.withDraws_v (x : Nat) : (s.withDraws x).v = s.v := rfl
@[simp] theorem State.withDraws_i (x : Nat) : (s.withDraws x).i = s.i := rfl
@[simp] theorem State.withDraws_pc (x : Nat) : (s.withDraws x).pc = s.pc := rfl
@[simp] theorem State.withDraws_stack (x : Nat) : (s.withDraws x).stack = s.stack := rfl
@[simp] theorem State.withDraws_sp (x : Nat) : (s.withDraws x).sp = s.sp := rfl
@[simp] theorem State.withDraws_dt (x : Nat) : (s.withDraws x).dt = s.dt := rfl
@[simp] theorem State.withDraws_st (x : Nat) : (s.withDraws x).st = s.st := rfl
@[simp] theorem State.withDraws_keys (x : Nat) : (s.withDraws x).keys = s.keys := rfl
@[simp] theorem State.withDraws_fb (x : Nat) : (s.withDraws x).fb = s.fb := rfl
@[simp] theorem State.withDraws_mem (x : Nat) : (s.withDraws x).mem = s.mem := rfl
@[simp] theorem State.withDraws_mode (x : Nat) : (s.withDraws x).mode = s.mode := rfl
@[simp] theorem State.withDraws_waitX (x : Nat) : (s.withDraws x).waitX = s.waitX := rfl
@[simp] theorem State.withDraws_waitKey (x : Nat) : (s.withDraws x).waitKey = s.waitKey := rfl
@[simp] theorem State.withDraws_fault (x : Nat) : (s.withDraws x).fault = s.fault := rfl
@[simp] theorem State.withDraws_unrec (x : Nat) : (s.withDraws x).unrec = s.unrec := rfl
@[simp] theorem State.withDraws_loaded (x : Nat) : (s.withDraws x).loaded = s.loaded := rfl
@[simp] theorem State.withDraws_params (x : Nat) : (s.withDraws x).params = s.params := rfl
@[simp] theorem State.withDraws_slot (x : Nat) : (s.withDraws x).slot = s.slot := rfl
@[simp] theorem State.withDraws_host (x : Nat) : (s.withDraws x).host = s.host := rfl
@[simp] theorem State.withDraws_answer (x : Nat) : (s.withDraws x).answer = s.answer := rfl
@[simp] theorem State.withDraws_draws (x : Nat) : (s.withDraws x).draws = x := rfl

end Sys2Proof.Machine
end

