-- ==== Sys2Proof/Laws/Ops.lean ====
section
/-! SUPPORT. What each shared operation can do, said once: registers, memory, the stack, a fatal error, the flags, the timers
and the wait. -/

namespace Sys2Proof.Machine

variable (s : State)

/-! ### The fields after a composite update -/

@[simp] theorem State.advance_v : (s.advance).v = s.v := rfl
@[simp] theorem State.advance_i : (s.advance).i = s.i := rfl
@[simp] theorem State.advance_pc : (s.advance).pc = (s.pc + 2) % 2 ^ s.params.pcWidth := rfl
@[simp] theorem State.advance_stack : (s.advance).stack = s.stack := rfl
@[simp] theorem State.advance_sp : (s.advance).sp = s.sp := rfl
@[simp] theorem State.advance_dt : (s.advance).dt = s.dt := rfl
@[simp] theorem State.advance_st : (s.advance).st = s.st := rfl
@[simp] theorem State.advance_keys : (s.advance).keys = s.keys := rfl
@[simp] theorem State.advance_fb : (s.advance).fb = s.fb := rfl
@[simp] theorem State.advance_mem : (s.advance).mem = s.mem := rfl
@[simp] theorem State.advance_mode : (s.advance).mode = s.mode := rfl
@[simp] theorem State.advance_waitX : (s.advance).waitX = s.waitX := rfl
@[simp] theorem State.advance_waitKey : (s.advance).waitKey = s.waitKey := rfl
@[simp] theorem State.advance_fault : (s.advance).fault = s.fault := rfl
@[simp] theorem State.advance_unrec : (s.advance).unrec = s.unrec := rfl
@[simp] theorem State.advance_loaded : (s.advance).loaded = s.loaded := rfl
@[simp] theorem State.advance_params : (s.advance).params = s.params := rfl
@[simp] theorem State.advance_slot : (s.advance).slot = s.slot := rfl
@[simp] theorem State.advance_host : (s.advance).host = s.host := rfl
@[simp] theorem State.advance_answer : (s.advance).answer = s.answer := rfl
@[simp] theorem State.advance_draws : (s.advance).draws = s.draws := rfl

@[simp] theorem State.setReg_v (x : Nat) (b : Byte) : (s.setReg x b).v = setAt 0 s.v x b := rfl
@[simp] theorem State.setReg_i (x : Nat) (b : Byte) : (s.setReg x b).i = s.i := rfl
@[simp] theorem State.setReg_pc (x : Nat) (b : Byte) : (s.setReg x b).pc = s.pc := rfl
@[simp] theorem State.setReg_stack (x : Nat) (b : Byte) : (s.setReg x b).stack = s.stack := rfl
@[simp] theorem State.setReg_sp (x : Nat) (b : Byte) : (s.setReg x b).sp = s.sp := rfl
@[simp] theorem State.setReg_dt (x : Nat) (b : Byte) : (s.setReg x b).dt = s.dt := rfl
@[simp] theorem State.setReg_st (x : Nat) (b : Byte) : (s.setReg x b).st = s.st := rfl
@[simp] theorem State.setReg_keys (x : Nat) (b : Byte) : (s.setReg x b).keys = s.keys := rfl
@[simp] theorem State.setReg_fb (x : Nat) (b : Byte) : (s.setReg x b).fb = s.fb := rfl
@[simp] theorem State.setReg_mem (x : Nat) (b : Byte) : (s.setReg x b).mem = s.mem := rfl
@[simp] theorem State.setReg_mode (x : Nat) (b : Byte) : (s.setReg x b).mode = s.mode := rfl
@[simp] theorem State.setReg_waitX (x : Nat) (b : Byte) : (s.setReg x b).waitX = s.waitX := rfl
@[simp] theorem State.setReg_waitKey (x : Nat) (b : Byte) : (s.setReg x b).waitKey = s.waitKey := rfl
@[simp] theorem State.setReg_fault (x : Nat) (b : Byte) : (s.setReg x b).fault = s.fault := rfl
@[simp] theorem State.setReg_unrec (x : Nat) (b : Byte) : (s.setReg x b).unrec = s.unrec := rfl
@[simp] theorem State.setReg_loaded (x : Nat) (b : Byte) : (s.setReg x b).loaded = s.loaded := rfl
@[simp] theorem State.setReg_params (x : Nat) (b : Byte) : (s.setReg x b).params = s.params := rfl
@[simp] theorem State.setReg_slot (x : Nat) (b : Byte) : (s.setReg x b).slot = s.slot := rfl
@[simp] theorem State.setReg_host (x : Nat) (b : Byte) : (s.setReg x b).host = s.host := rfl
@[simp] theorem State.setReg_answer (x : Nat) (b : Byte) : (s.setReg x b).answer = s.answer := rfl
@[simp] theorem State.setReg_draws (x : Nat) (b : Byte) : (s.setReg x b).draws = s.draws := rfl

@[simp] theorem State.fatal_v (k : Fault) (op : Option Word) (n : Nat) : (s.fatal k op n).v = s.v := rfl
@[simp] theorem State.fatal_i (k : Fault) (op : Option Word) (n : Nat) : (s.fatal k op n).i = s.i := rfl
@[simp] theorem State.fatal_pc (k : Fault) (op : Option Word) (n : Nat) : (s.fatal k op n).pc = s.pc := rfl
@[simp] theorem State.fatal_stack (k : Fault) (op : Option Word) (n : Nat) : (s.fatal k op n).stack = s.stack := rfl
@[simp] theorem State.fatal_sp (k : Fault) (op : Option Word) (n : Nat) : (s.fatal k op n).sp = s.sp := rfl
@[simp] theorem State.fatal_dt (k : Fault) (op : Option Word) (n : Nat) : (s.fatal k op n).dt = s.dt := rfl
@[simp] theorem State.fatal_st (k : Fault) (op : Option Word) (n : Nat) : (s.fatal k op n).st = s.st := rfl
@[simp] theorem State.fatal_keys (k : Fault) (op : Option Word) (n : Nat) : (s.fatal k op n).keys = s.keys := rfl
@[simp] theorem State.fatal_fb (k : Fault) (op : Option Word) (n : Nat) : (s.fatal k op n).fb = s.fb := rfl
@[simp] theorem State.fatal_mem (k : Fault) (op : Option Word) (n : Nat) : (s.fatal k op n).mem = s.mem := rfl
@[simp] theorem State.fatal_mode (k : Fault) (op : Option Word) (n : Nat) : (s.fatal k op n).mode = .halted := rfl
@[simp] theorem State.fatal_waitX (k : Fault) (op : Option Word) (n : Nat) : (s.fatal k op n).waitX = s.waitX := rfl
@[simp] theorem State.fatal_waitKey (k : Fault) (op : Option Word) (n : Nat) : (s.fatal k op n).waitKey = s.waitKey := rfl
@[simp] theorem State.fatal_fault (k : Fault) (op : Option Word) (n : Nat) : (s.fatal k op n).fault = some ⟨k, s.pc, op, n⟩ := rfl
@[simp] theorem State.fatal_unrec (k : Fault) (op : Option Word) (n : Nat) : (s.fatal k op n).unrec = s.unrec := rfl
@[simp] theorem State.fatal_loaded (k : Fault) (op : Option Word) (n : Nat) : (s.fatal k op n).loaded = s.loaded := rfl
@[simp] theorem State.fatal_params (k : Fault) (op : Option Word) (n : Nat) : (s.fatal k op n).params = s.params := rfl
@[simp] theorem State.fatal_slot (k : Fault) (op : Option Word) (n : Nat) : (s.fatal k op n).slot = s.slot := rfl
@[simp] theorem State.fatal_host (k : Fault) (op : Option Word) (n : Nat) : (s.fatal k op n).host = s.host := rfl
@[simp] theorem State.fatal_answer (k : Fault) (op : Option Word) (n : Nat) : (s.fatal k op n).answer = s.answer := rfl
@[simp] theorem State.fatal_draws (k : Fault) (op : Option Word) (n : Nat) : (s.fatal k op n).draws = s.draws := rfl

@[simp] theorem State.writeBlock_v (a : Nat) (xs : List Byte) : (s.writeBlock a xs).v = s.v := rfl
@[simp] theorem State.writeBlock_i (a : Nat) (xs : List Byte) : (s.writeBlock a xs).i = s.i := rfl
@[simp] theorem State.writeBlock_pc (a : Nat) (xs : List Byte) : (s.writeBlock a xs).pc = s.pc := rfl
@[simp] theorem State.writeBlock_stack (a : Nat) (xs : List Byte) : (s.writeBlock a xs).stack = s.stack := rfl
@[simp] theorem State.writeBlock_sp (a : Nat) (xs : List Byte) : (s.writeBlock a xs).sp = s.sp := rfl
@[simp] theorem State.writeBlock_dt (a : Nat) (xs : List Byte) : (s.writeBlock a xs).dt = s.dt := rfl
@[simp] theorem State.writeBlock_st (a : Nat) (xs : List Byte) : (s.writeBlock a xs).st = s.st := rfl
@[simp] theorem State.writeBlock_keys (a : Nat) (xs : List Byte) : (s.writeBlock a xs).keys = s.keys := rfl
@[simp] theorem State.writeBlock_fb (a : Nat) (xs : List Byte) : (s.writeBlock a xs).fb = s.fb := rfl
@[simp] theorem State.writeBlock_mem (a : Nat) (xs : List Byte) : (s.writeBlock a xs).mem = writeBytes s.params s.mem a xs := rfl
@[simp] theorem State.writeBlock_mode (a : Nat) (xs : List Byte) : (s.writeBlock a xs).mode = s.mode := rfl
@[simp] theorem State.writeBlock_waitX (a : Nat) (xs : List Byte) : (s.writeBlock a xs).waitX = s.waitX := rfl
@[simp] theorem State.writeBlock_waitKey (a : Nat) (xs : List Byte) : (s.writeBlock a xs).waitKey = s.waitKey := rfl
@[simp] theorem State.writeBlock_fault (a : Nat) (xs : List Byte) : (s.writeBlock a xs).fault = s.fault := rfl
@[simp] theorem State.writeBlock_unrec (a : Nat) (xs : List Byte) : (s.writeBlock a xs).unrec = s.unrec := rfl
@[simp] theorem State.writeBlock_loaded (a : Nat) (xs : List Byte) : (s.writeBlock a xs).loaded = s.loaded := rfl
@[simp] theorem State.writeBlock_params (a : Nat) (xs : List Byte) : (s.writeBlock a xs).params = s.params := rfl
@[simp] theorem State.writeBlock_slot (a : Nat) (xs : List Byte) : (s.writeBlock a xs).slot = s.slot := rfl
@[simp] theorem State.writeBlock_host (a : Nat) (xs : List Byte) : (s.writeBlock a xs).host = s.host := rfl
@[simp] theorem State.writeBlock_answer (a : Nat) (xs : List Byte) : (s.writeBlock a xs).answer = s.answer := rfl
@[simp] theorem State.writeBlock_draws (a : Nat) (xs : List Byte) : (s.writeBlock a xs).draws = s.draws := rfl

@[simp] theorem State.armWait_v (x : Reg) : (s.armWait x).v = s.v := rfl
@[simp] theorem State.armWait_i (x : Reg) : (s.armWait x).i = s.i := rfl
@[simp] theorem State.armWait_pc (x : Reg) : (s.armWait x).pc = s.pc := rfl
@[simp] theorem State.armWait_stack (x : Reg) : (s.armWait x).stack = s.stack := rfl
@[simp] theorem State.armWait_sp (x : Reg) : (s.armWait x).sp = s.sp := rfl
@[simp] theorem State.armWait_dt (x : Reg) : (s.armWait x).dt = s.dt := rfl
@[simp] theorem State.armWait_st (x : Reg) : (s.armWait x).st = s.st := rfl
@[simp] theorem State.armWait_keys (x : Reg) : (s.armWait x).keys = s.keys := rfl
@[simp] theorem State.armWait_fb (x : Reg) : (s.armWait x).fb = s.fb := rfl
@[simp] theorem State.armWait_mem (x : Reg) : (s.armWait x).mem = s.mem := rfl
@[simp] theorem State.armWait_mode (x : Reg) : (s.armWait x).mode = .awaitingKey := rfl
@[simp] theorem State.armWait_waitX (x : Reg) : (s.armWait x).waitX = x := rfl
@[simp] theorem State.armWait_waitKey (x : Reg) : (s.armWait x).waitKey = none := rfl
@[simp] theorem State.armWait_fault (x : Reg) : (s.armWait x).fault = s.fault := rfl
@[simp] theorem State.armWait_unrec (x : Reg) : (s.armWait x).unrec = s.unrec := rfl
@[simp] theorem State.armWait_loaded (x : Reg) : (s.armWait x).loaded = s.loaded := rfl
@[simp] theorem State.armWait_params (x : Reg) : (s.armWait x).params = s.params := rfl
@[simp] theorem State.armWait_slot (x : Reg) : (s.armWait x).slot = s.slot := rfl
@[simp] theorem State.armWait_host (x : Reg) : (s.armWait x).host = s.host := rfl
@[simp] theorem State.armWait_answer (x : Reg) : (s.armWait x).answer = s.answer := rfl
@[simp] theorem State.armWait_draws (x : Reg) : (s.armWait x).draws = s.draws := rfl

@[simp] theorem State.timerTick_v : (s.timerTick).v = s.v := rfl
@[simp] theorem State.timerTick_i : (s.timerTick).i = s.i := rfl
@[simp] theorem State.timerTick_pc : (s.timerTick).pc = s.pc := rfl
@[simp] theorem State.timerTick_stack : (s.timerTick).stack = s.stack := rfl
@[simp] theorem State.timerTick_sp : (s.timerTick).sp = s.sp := rfl
@[simp] theorem State.timerTick_dt : (s.timerTick).dt = countDown s.dt := rfl
@[simp] theorem State.timerTick_st : (s.timerTick).st = countDown s.st := rfl
@[simp] theorem State.timerTick_keys : (s.timerTick).keys = s.keys := rfl
@[simp] theorem State.timerTick_fb : (s.timerTick).fb = s.fb := rfl
@[simp] theorem State.timerTick_mem : (s.timerTick).mem = s.mem := rfl
@[simp] theorem State.timerTick_mode : (s.timerTick).mode = s.mode := rfl
@[simp] theorem State.timerTick_waitX : (s.timerTick).waitX = s.waitX := rfl
@[simp] theorem State.timerTick_waitKey : (s.timerTick).waitKey = s.waitKey := rfl
@[simp] theorem State.timerTick_fault : (s.timerTick).fault = s.fault := rfl
@[simp] theorem State.timerTick_unrec : (s.timerTick).unrec = s.unrec := rfl
@[simp] theorem State.timerTick_loaded : (s.timerTick).loaded = s.loaded := rfl
@[simp] theorem State.timerTick_params : (s.timerTick).params = s.params := rfl
@[simp] theorem State.timerTick_slot : (s.timerTick).slot = s.slot := rfl
@[simp] theorem State.timerTick_host : (s.timerTick).host = s.host := rfl
@[simp] theorem State.timerTick_answer : (s.timerTick).answer = s.answer := rfl
@[simp] theorem State.timerTick_draws : (s.timerTick).draws = s.draws := rfl


/-! ### Registers -/

/-- A register after a register write. -/
theorem State.reg_setReg (x r : Nat) (b : Byte) : (s.setReg x b).reg r = if r = x then b else s.reg r :=
  getD_setAt 0 b s.v x r

@[simp] theorem State.reg_setReg_same (x : Nat) (b : Byte) : (s.setReg x b).reg x = b :=
  (s.reg_setReg x x b).trans (if_pos rfl)

theorem State.reg_setReg_ne {x r : Nat} (b : Byte) (h : r ≠ x) : (s.setReg x b).reg r = s.reg r :=
  (s.reg_setReg x r b).trans (if_neg h)

@[simp] theorem State.reg_advance (r : Nat) : s.advance.reg r = s.reg r := rfl

@[simp] theorem State.byteAt_advance (a : Nat) : s.advance.byteAt a = s.byteAt a := rfl

/-- The number of registers after a register write to one that exists. -/
theorem State.length_setReg {x : Nat} (b : Byte) (h : x < s.v.length) : (s.setReg x b).v.length = s.v.length :=
  length_setAt 0 b h

/-- The registers after FX65's loads (R165). -/
theorem State.reg_loadedRegs (x : Reg) (r : Nat) :
    (s.withV (s.loadedRegs x)).reg r = if r ≤ x.val then s.byteAt (s.indexed r) else s.reg r := by
  have key : ∀ (n : Nat) (v : List Byte),
      ((List.range n).foldl (fun v k => setAt 0 v k (s.byteAt (s.indexed k))) v).getD r 0 =
        if r < n then s.byteAt (s.indexed r) else v.getD r 0 := by
    intro n v
    induction n with
    | zero => simp
    | succ n ih =>
      rw [List.range_succ, List.foldl_append, List.foldl_cons, List.foldl_nil, getD_setAt, ih]
      by_cases h : r = n
      · rw [if_pos h, if_pos (by omega), h]
      · rw [if_neg h]
        exact if_congr (by omega) rfl rfl
  exact (key (x.val + 1) s.v).trans (if_congr Nat.lt_succ_iff rfl rfl)

/-- FX65 keeps the number of registers, where the sixteen that X names exist. -/
theorem State.length_loadedRegs (x : Reg) (h : 16 ≤ s.v.length) : (s.loadedRegs x).length = s.v.length := by
  have key : ∀ n, n ≤ s.v.length →
      ((List.range n).foldl (fun v k => setAt 0 v k (s.byteAt (s.indexed k))) s.v).length = s.v.length := by
    intro n
    induction n with
    | zero => exact fun _ => rfl
    | succ n ih =>
      intro hn
      have ih := ih (by omega)
      rw [List.range_succ, List.foldl_append, List.foldl_cons, List.foldl_nil, length_setAt _ _ (by omega), ih]
  exact key (x.val + 1) (by omega)

@[simp] theorem State.length_lowRegs (x : Reg) : (s.lowRegs x).length = x.val + 1 := by simp [State.lowRegs]

/-- The bytes FX55 stores are the registers in order (R164). -/
theorem State.lowRegs_getElem (x : Reg) (r : Nat) (h : r < (s.lowRegs x).length) : (s.lowRegs x)[r] = s.reg r := by
  simp [State.lowRegs]

/-! ### The flags (R131) -/

/-- A flagged instruction writes the registers alone. -/
theorem State.arith_eq (f g : Byte → Byte → Byte) (x y : Nat) : s.arith f g x y = s.withV (s.arith f g x y).v := by
  unfold State.arith
  split <;> rfl

/-- What a flagged instruction leaves in a register that is neither X nor VF. -/
theorem State.arith_other (f g : Byte → Byte → Byte) (x y : Nat) {r : Nat} (hx : r ≠ x) (hf : r ≠ regF) :
    (s.arith f g x y).reg r = s.reg r := by
  unfold State.arith
  split <;> simp [State.reg_setReg, hx, hf]

theorem State.logic_on (f : Byte → Byte → Byte) (x y : Nat) (h : s.params.logicVfReset = true) :
    s.logic f x y = (s.setReg x (f (s.reg x) (s.reg y))).setReg regF 0 :=
  if_pos h

theorem State.logic_off (f : Byte → Byte → Byte) (x y : Nat) (h : s.params.logicVfReset = false) :
    s.logic f x y = s.setReg x (f (s.reg x) (s.reg y)) :=
  if_neg (by simp [h])

/-- What a logic instruction leaves: the result in X, VF cleared under LOGIC_VF_RESET, nothing else (R135 to R137). -/
theorem State.logic_spec (f : Byte → Byte → Byte) (x y : Nat) :
    (s.params.logicVfReset = true → (s.logic f x y).reg regF = 0) ∧
    (s.params.logicVfReset = false ∨ x ≠ regF → (s.logic f x y).reg x = f (s.reg x) (s.reg y)) ∧
    (∀ r, r ≠ x → s.params.logicVfReset = false ∨ r ≠ regF → (s.logic f x y).reg r = s.reg r) ∧
    s.logic f x y = s.withV (s.logic f x y).v := by
  unfold State.logic
  cases h : s.params.logicVfReset
  · exact ⟨nofun, fun _ => State.reg_setReg_same _ _ _, fun r hr _ => State.reg_setReg_ne _ _ hr, rfl⟩
  · refine ⟨fun _ => State.reg_setReg_same _ _ _, fun hx => ?_, fun r hr hf => ?_, rfl⟩
    · have hx : x ≠ regF := by simpa using hx
      exact (State.reg_setReg_ne _ _ hx).trans (State.reg_setReg_same _ _ _)
    · have hf : r ≠ regF := by simpa using hf
      exact (State.reg_setReg_ne _ _ hf).trans (State.reg_setReg_ne _ _ hr)

/-- What a shift leaves: where X is not VF, the result and the flag; where it is, the flag shifted too (R140, R142). -/
theorem State.shift_spec (out move : Byte → Byte) (x y : Nat) :
    (x ≠ regF → (s.shift out move x y).reg x = move (s.reg y) ∧ (s.shift out move x y).reg regF = out (s.reg y)) ∧
    (x = regF → (s.shift out move x y).reg regF = move (out (s.reg y))) ∧
    (∀ r, r ≠ x → r ≠ regF → (s.shift out move x y).reg r = s.reg r) ∧
    s.shift out move x y = s.withV (s.shift out move x y).v := by
  refine ⟨fun h => ?_, ?_, fun r h1 h2 => ?_, rfl⟩
  · simp [State.shift, State.reg_setReg, h, Ne.symm h]
  · rintro rfl
    simp [State.shift]
  · simp [State.shift, State.reg_setReg, h1, h2]

/-- The number of registers after the instructions that also write VF, where X and VF exist. -/
theorem State.length_setReg_setReg {x y : Nat} (a b : Byte) (hx : x < s.v.length) (hy : y < s.v.length) :
    ((s.setReg x a).setReg y b).v.length = s.v.length := by
  have h := s.length_setReg a hx
  rw [State.length_setReg _ b (h.symm ▸ hy), h]

theorem State.length_arith (f g : Byte → Byte → Byte) {x : Nat} (y : Nat) (hx : x < s.v.length)
    (hf : regF < s.v.length) : (s.arith f g x y).v.length = s.v.length := by
  unfold State.arith
  split
  · exact s.length_setReg_setReg _ _ hx hf
  · exact s.length_setReg_setReg _ _ hf hx
  · exact s.length_setReg_setReg _ _ hf hx

theorem State.length_logic (f : Byte → Byte → Byte) {x : Nat} (y : Nat) (hx : x < s.v.length)
    (hf : regF < s.v.length) : (s.logic f x y).v.length = s.v.length := by
  unfold State.logic
  split
  · exact s.length_setReg_setReg _ _ hx hf
  · exact s.length_setReg _ hx

theorem State.length_shift (out move : Byte → Byte) {x : Nat} (y : Nat) (hx : x < s.v.length)
    (hf : regF < s.v.length) : (s.shift out move x y).v.length = s.v.length := by
  have h := s.length_setReg_setReg (s.reg y) (out ((s.setReg x (s.reg y)).reg x)) hx hf
  exact (State.length_setReg _ _ (h.symm ▸ hx)).trans h

/-- A skip after the advance: PC + 4 or PC + 2, mod 65536 (R118). -/
theorem State.skipWhen_advance (c : Bool) :
    s.advance.skipWhen c = s.withPc ((if c then s.pc + 4 else s.pc + 2) % 2 ^ s.params.pcWidth) := by
  cases c
  · rfl
  · show s.withPc (((s.pc + 2) % 2 ^ s.params.pcWidth + 2) % 2 ^ s.params.pcWidth) = _
    rw [Nat.mod_add_mod]
    rfl

/-- The post-modification of I changes I alone (R164, R165). -/
theorem State.stepI_eq (x : Reg) : s.stepI x = s.withI (s.stepI x).i := by
  unfold State.stepI
  split <;> rfl

/-- I after the post-modification (R164, R165). -/
theorem State.stepI_i (x : Reg) :
    (s.stepI x).i = match s.params.loadStoreI with
      | .unchanged => s.i
      | .addXPlus1 => (s.i + x.val + 1) % 2 ^ s.params.iWidth := by
  unfold State.stepI
  cases s.params.loadStoreI <;> rfl

/-- The block of FX55 or FX65 that ends inside memory raises nothing (R164). -/
theorem State.blockFault_eq_none {x : Reg} (h : s.i + x.val < s.params.memSize) : s.blockFault x = none := by
  rw [State.blockFault, firstOutOfBounds_eq_none]
  omega

/-- The block that does not reports its lowest address outside memory (R164). -/
theorem State.blockFault_eq_some {x : Reg} (h : s.params.memSize ≤ s.i + x.val) :
    s.blockFault x = some (max s.i s.params.memSize) := by
  cases hb : s.blockFault x with
  | none =>
    rw [State.blockFault, firstOutOfBounds_eq_none] at hb
    omega
  | some a => rw [(firstOutOfBounds_eq_some hb).1]

/-! ### The stack (R26) -/

/-- The stack entries after a stack update. -/
theorem State.entry_withStack (stack : List Nat) (sp k : Nat) :
    (s.withStack stack sp).entry k = stack.getD k 0 := rfl

/-- A push with room stores at SP and raises SP. -/
theorem State.push_of_lt (a : Nat) (h : s.sp < s.params.stackCap) :
    s.push a = some (s.withStack (setAt 0 s.stack s.sp a) (s.sp + 1)) := if_pos h

/-- A push raises StackOverflow exactly at SP = STACK_CAP (or above). -/
theorem State.push_eq_none (a : Nat) : s.push a = none ↔ s.params.stackCap ≤ s.sp := by
  unfold State.push
  split <;> simp <;> omega

/-- The entries after a push (R26): the one at SP is the pushed address, the others are kept. -/
theorem State.entry_push (a : Nat) (k : Nat) :
    (s.withStack (setAt 0 s.stack s.sp a) (s.sp + 1)).entry k = if k = s.sp then a else s.entry k :=
  getD_setAt 0 a s.stack s.sp k

/-- A pop of a stack with `k + 1` entries answers the top one and lowers SP. -/
theorem State.pop_of_succ {k : Nat} (h : s.sp = k + 1) : s.pop = some (s.entry k, s.withStack s.stack k) := by
  simp [State.pop, h]

/-- A pop raises StackUnderflow exactly at SP = 0. -/
theorem State.pop_eq_none : s.pop = none ↔ s.sp = 0 := by
  unfold State.pop
  split <;> simp [*]

/-! ### Keys and timers -/

theorem State.keyDown_of_lt {k : Byte} (h : k.toNat < s.params.numKeys) : s.keyDown k = some (s.key k.toNat) := if_pos h

theorem State.keyDown_eq_none {k : Byte} : s.keyDown k = none ↔ s.params.numKeys ≤ k.toNat := by
  unfold State.keyDown
  split <;> simp <;> omega

/-- One decrement, floored at 0, as a number (R200). -/
theorem countDown_toNat (b : Byte) : (countDown b).toNat = b.toNat - 1 := by
  unfold countDown
  split
  · next h => subst h; rfl
  · next h =>
    have : b.toNat ≠ 0 := fun e => h (BitVec.eq_of_toNat_eq (by simpa using e))
    have := b.isLt
    rw [BitVec.toNat_sub, show (1 : Byte).toNat = 1 from rfl]
    omega

/-- No key is down (R209). -/
theorem State.leastKeyDown_eq_none : s.leastKeyDown = none ↔ ∀ k, k < s.params.numKeys → s.key k = false := by
  simp [State.leastKeyDown, List.find?_eq_none]

/-- The least key that is down (R209). -/
theorem State.leastKeyDown_eq_some {k : Nat} (h : s.leastKeyDown = some k) :
    k < s.params.numKeys ∧ s.key k = true ∧ ∀ j, j < k → s.key j = false := by
  obtain ⟨hk, as, bs, heq, has⟩ := List.find?_eq_some_iff_append.1 h
  have hmem : k ∈ List.range s.params.numKeys := by rw [heq]; simp
  have hlt := List.mem_range.1 hmem
  refine ⟨hlt, hk, fun j hj => ?_⟩
  have hsorted := List.pairwise_lt_range (n := s.params.numKeys)
  have hj' : j ∈ List.range s.params.numKeys := List.mem_range.2 (hj.trans hlt)
  rw [heq] at hj' hsorted
  rcases List.mem_append.1 hj' with hm | hm
  · simpa using has j hm
  · rcases List.mem_cons.1 hm with rfl | hm
    · exact absurd hj (lt_irrefl _)
    · exact absurd hj (not_lt_of_gt ((List.pairwise_cons.1 (List.pairwise_append.1 hsorted).2.1).1 j hm))

end Sys2Proof.Machine
end

