-- ==== Sys2Proof/Laws/Exec.lean ====
section
/-! SUPPORT. The two paths of each meaning that can be fatal, and the phases of a step, each said once. -/

namespace Sys2Proof.Machine

open Host

variable (s : State)

/-! ### The meanings that can be fatal (R231) -/

theorem execCall_room (nnn : Addr12) (h : s.sp < s.params.stackCap) :
    execCall nnn s =
      .next ((s.advance.withStack (setAt 0 s.stack s.sp ((s.pc + 2) % 2 ^ s.params.pcWidth)) (s.sp + 1)).withPc nnn.toNat) := by
  unfold execCall
  rw [s.advance.push_of_lt s.advance.pc h]
  rfl

theorem execCall_full (nnn : Addr12) (h : s.params.stackCap ≤ s.sp) :
    execCall nnn s = .next (s.fatal .stackOverflow (some (encode (.call nnn))) s.sp) := by
  unfold execCall
  rw [(s.advance.push_eq_none s.advance.pc).2 h]

theorem execRet_pop (x : Reg) {k : Nat} (h : s.sp = k + 1) :
    execRet x s = .next ((s.advance.withStack s.stack k).withPc (s.entry k)) := by
  unfold execRet
  rw [s.advance.pop_of_succ h]
  rfl

theorem execRet_empty (x : Reg) (h : s.sp = 0) :
    execRet x s = .next (s.fatal .stackUnderflow (some (encode (.ret x))) s.sp) := by
  unfold execRet
  rw [s.advance.pop_eq_none.2 h]

theorem execLdMemVx_fits (x : Reg) (h : s.i + x.val < s.params.memSize) :
    execLdMemVx x s = .next ((s.advance.writeBlock s.i (s.lowRegs x)).stepI x) := by
  unfold execLdMemVx
  rw [s.blockFault_eq_none h]

theorem execLdMemVx_outside (x : Reg) (h : s.params.memSize ≤ s.i + x.val) :
    execLdMemVx x s = .next (s.fatal .memoryOutOfBounds (some (encode (.ldMemVx x))) (max s.i s.params.memSize)) := by
  unfold execLdMemVx
  rw [s.blockFault_eq_some h]

theorem execLdVxMem_fits (x : Reg) (h : s.i + x.val < s.params.memSize) :
    execLdVxMem x s = .next ((s.advance.withV (s.loadedRegs x)).stepI x) := by
  unfold execLdVxMem
  rw [s.blockFault_eq_none h]

theorem execLdVxMem_outside (x : Reg) (h : s.params.memSize ≤ s.i + x.val) :
    execLdVxMem x s = .next (s.fatal .memoryOutOfBounds (some (encode (.ldVxMem x))) (max s.i s.params.memSize)) := by
  unfold execLdVxMem
  rw [s.blockFault_eq_some h]

theorem execSkp_key (x : Reg) (h : (s.reg x).toNat < s.params.numKeys) :
    execSkp x s = .next (s.advance.skipWhen (s.key (s.reg x).toNat)) := by
  unfold execSkp
  rw [s.keyDown_of_lt h]

theorem execSkp_noKey (x : Reg) (h : s.params.numKeys ≤ (s.reg x).toNat) :
    execSkp x s = .next (s.fatal .keyIndexOutOfRange (some (encode (.skp x))) (s.reg x).toNat) := by
  unfold execSkp
  rw [s.keyDown_eq_none.2 h]

theorem execSknp_key (x : Reg) (h : (s.reg x).toNat < s.params.numKeys) :
    execSknp x s = .next (s.advance.skipWhen (!(s.key (s.reg x).toNat))) := by
  unfold execSknp
  rw [s.keyDown_of_lt h]

theorem execSknp_noKey (x : Reg) (h : s.params.numKeys ≤ (s.reg x).toNat) :
    execSknp x s = .next (s.fatal .keyIndexOutOfRange (some (encode (.sknp x))) (s.reg x).toNat) := by
  unfold execSknp
  rw [s.keyDown_eq_none.2 h]

/-! ### Fetch (R53) -/

variable {s}

theorem State.fetch_ok {hi lo : Byte} (h1 : s.memRead s.pc = some hi)
    (h2 : s.memRead (s.pc + 1) = some lo) : s.fetch = .ok (joinBytes hi lo) := by
  simp only [State.fetch, h1, h2]

/-- A fetch past the last word of memory raises, with the lowest address that does not exist. -/
theorem State.fetch_error (h : s.params.memSize ≤ s.pc + 1) :
    s.fetch = .error (max s.pc s.params.memSize) := by
  unfold State.fetch State.memRead
  by_cases h' : s.pc < s.params.memSize
  · rw [(inBounds_iff s.pc).2 h', Bool.eq_false_iff.2 (mt (inBounds_iff (s.pc + 1)).1 (by omega))]
    simp
    omega
  · rw [Bool.eq_false_iff.2 (mt (inBounds_iff s.pc).1 h')]
    simp
    omega

/-- A fetch that answers a word had both its bytes inside memory. -/
theorem State.pc_lt_of_fetch {op : Word} (h : s.fetch = .ok op) : s.pc + 1 < s.params.memSize := by
  by_contra hn
  rw [State.fetch_error (by omega)] at h
  cases h

/-- A fetch inside memory answers the two bytes at PC, the high byte first. -/
theorem State.fetch_of_lt (h : s.pc + 1 < s.params.memSize) :
    ∃ hi lo, s.memRead s.pc = some hi ∧ s.memRead (s.pc + 1) = some lo ∧ s.fetch = .ok (joinBytes hi lo) := by
  have h1 : s.memRead s.pc = some (s.byteAt s.pc) := if_pos ((inBounds_iff _).2 (by omega))
  have h2 : s.memRead (s.pc + 1) = some (s.byteAt (s.pc + 1)) := if_pos ((inBounds_iff _).2 h)
  exact ⟨_, _, h1, h2, State.fetch_ok h1 h2⟩

/-! ### The phases of a step -/

theorem step_slot {k : Nat} (h : s.slot = some k) : step s = batchSlot k s := by
  unfold step
  rw [h]

theorem step_command {c : HostCommand} {cs : List HostCommand} (h1 : s.slot = none) (h2 : s.host = c :: cs) :
    step s = .next ((s.withHost cs).command c) := by
  unfold step
  rw [h1]
  simp only [h2]

theorem step_idle (h1 : s.slot = none) (h2 : s.host = []) : step s = .next s := by
  unfold step
  rw [h1]
  simp only [h2]

theorem batchSlot_run {k : Nat} (h1 : s.mode = .running) (h2 : k < s.params.batch) :
    batchSlot k s = mapNext (fun t => t.withSlot (some (k + 1))) (instruction s) := by
  unfold batchSlot
  rw [h1]
  exact if_pos h2

theorem batchSlot_end {k : Nat} (h : s.mode = .running → s.params.batch ≤ k) : batchSlot k s = .next s.endTick := by
  unfold batchSlot
  split
  · next hm => exact if_neg (not_lt.2 (h hm))
  · rfl
  · rfl

theorem instruction_decoded {op : Word} {i : Instr} (h1 : s.fetch = .ok op) (h2 : decode op = .ok i) :
    instruction s = exec i s := by
  simp only [instruction, h1, h2]

theorem instruction_unrecognized {op : Word} {r : Reject} (h1 : s.fetch = .ok op) (h2 : decode op = .error r) :
    instruction s = .next s.countUnrecognized := by
  simp only [instruction, h1, h2]

theorem instruction_fetchFault {a : Nat} (h : s.fetch = .error a) :
    instruction s = .next (s.fatal .memoryOutOfBounds none a) := by
  simp only [instruction, h]

/-- All that a step which answers a next state can be: an instruction of the batch, the end of the tick, nothing, or a
command of the host. -/
theorem step_cases {t : State} (h : step s = .next t) :
    (∃ k u, s.slot = some k ∧ k < s.params.batch ∧ s.mode = .running ∧ instruction s = .next u ∧
      t = u.withSlot (some (k + 1))) ∨
    (∃ k, s.slot = some k ∧ (s.mode = .running → s.params.batch ≤ k) ∧ t = s.endTick) ∨
    (s.slot = none ∧ s.host = [] ∧ t = s) ∨
    ∃ c cs, s.slot = none ∧ s.host = c :: cs ∧ t = (s.withHost cs).command c := by
  cases hs : s.slot with
  | some k =>
    rw [step_slot hs] at h
    by_cases hk : s.mode = .running ∧ k < s.params.batch
    · rw [batchSlot_run hk.1 hk.2] at h
      cases hi : instruction s with
      | next u =>
        rw [hi] at h
        cases h
        exact .inl ⟨k, u, rfl, hk.2, hk.1, rfl, rfl⟩
      | fault e => rw [hi] at h; cases h
      | refused r => rw [hi] at h; cases h
    · have hend : s.mode = .running → s.params.batch ≤ k := fun hm => Nat.not_lt.1 fun hlt => hk ⟨hm, hlt⟩
      rw [batchSlot_end hend] at h
      cases h
      exact .inr (.inl ⟨k, rfl, hend, rfl⟩)
  | none =>
    cases hh : s.host with
    | nil =>
      rw [step_idle hs hh] at h
      cases h
      exact .inr (.inr (.inl ⟨rfl, rfl, rfl⟩))
    | cons c cs =>
      rw [step_command hs hh] at h
      cases h
      exact .inr (.inr (.inr ⟨c, cs, rfl, rfl, rfl⟩))

/-- A run starts with its first step. -/
theorem run_succ_of_next (M : Core) {n : Nat} {s t : M.State} (h : M.step s = .next t) : M.run (n + 1) s = M.run n t := by
  simp only [Core.run]
  rw [h]

theorem core_run_succ {n : Nat} {s t : State} (h : step s = .next t) :
    Sys2Proof.core.run (n + 1) s = Sys2Proof.core.run n t :=
  run_succ_of_next Sys2Proof.core h

theorem State.timerPhase_live (h : s.mode ≠ .halted) : s.timerPhase = s.timerTick := by
  unfold State.timerPhase
  split
  · rfl
  · rfl
  · next hm => exact absurd hm h

theorem State.timerPhase_halted (h : s.mode = .halted) : s.timerPhase = s := by
  unfold State.timerPhase
  rw [h]

end Sys2Proof.Machine
end

