-- ==== Sys2Proof/Laws/PerInstr.lean ====
section
/-! SUPPORT. Per instruction: the word that `encode` writes lies in the instruction's own row of the opcode map (R74). -/

namespace Sys2Proof.Laws.EncodesInItsRow

/-- The fixed bits of the encoded word are those of the instruction's row (R74: "op & mask == match"). -/
def Statement (i : Instr) : Prop := encode i &&& i.rowMask = i.rowMatch

theorem cls (x : Reg) : Statement (.cls x) := (top_byte_fixed _ _ _).trans rfl

theorem ret (x : Reg) : Statement (.ret x) := (top_byte_fixed _ _ _).trans rfl

theorem jp (nnn : Addr12) : Statement (.jp nnn) := (top_fixed _ _).trans rfl

theorem call (nnn : Addr12) : Statement (.call nnn) := (top_fixed _ _).trans rfl

theorem seImm (x : Reg) (nn : Byte) : Statement (.seImm x nn) := (top_fixed _ _).trans rfl

theorem sneImm (x : Reg) (nn : Byte) : Statement (.sneImm x nn) := (top_fixed _ _).trans rfl

theorem seReg (x y : Reg) (n : Nibble) : Statement (.seReg x y n) := (top_fixed _ _).trans rfl

theorem ldImm (x : Reg) (nn : Byte) : Statement (.ldImm x nn) := (top_fixed _ _).trans rfl

theorem addImm (x : Reg) (nn : Byte) : Statement (.addImm x nn) := (top_fixed _ _).trans rfl

theorem ldReg (x y : Reg) : Statement (.ldReg x y) := (top_nibble_fixed _ _ _ _).trans rfl

theorem orReg (x y : Reg) : Statement (.orReg x y) := (top_nibble_fixed _ _ _ _).trans rfl

theorem andReg (x y : Reg) : Statement (.andReg x y) := (top_nibble_fixed _ _ _ _).trans rfl

theorem xorReg (x y : Reg) : Statement (.xorReg x y) := (top_nibble_fixed _ _ _ _).trans rfl

theorem addReg (x y : Reg) : Statement (.addReg x y) := (top_nibble_fixed _ _ _ _).trans rfl

theorem subReg (x y : Reg) : Statement (.subReg x y) := (top_nibble_fixed _ _ _ _).trans rfl

theorem shr (x y : Reg) : Statement (.shr x y) := (top_nibble_fixed _ _ _ _).trans rfl

theorem subnReg (x y : Reg) : Statement (.subnReg x y) := (top_nibble_fixed _ _ _ _).trans rfl

theorem shl (x y : Reg) : Statement (.shl x y) := (top_nibble_fixed _ _ _ _).trans rfl

theorem sneReg (x y : Reg) (n : Nibble) : Statement (.sneReg x y n) := (top_fixed _ _).trans rfl

theorem ldI (nnn : Addr12) : Statement (.ldI nnn) := (top_fixed _ _).trans rfl

theorem jpV0 (nnn : Addr12) : Statement (.jpV0 nnn) := (top_fixed _ _).trans rfl

theorem rnd (x : Reg) (nn : Byte) : Statement (.rnd x nn) := (top_fixed _ _).trans rfl

theorem drw (x y : Reg) (n : Nat) : Statement (.drw x y n) := (top_fixed _ _).trans rfl

theorem skp (x : Reg) : Statement (.skp x) := (top_byte_fixed _ _ _).trans rfl

theorem sknp (x : Reg) : Statement (.sknp x) := (top_byte_fixed _ _ _).trans rfl

theorem ldVxDt (x : Reg) : Statement (.ldVxDt x) := (top_byte_fixed _ _ _).trans rfl

theorem ldVxK (x : Reg) : Statement (.ldVxK x) := (top_byte_fixed _ _ _).trans rfl

theorem ldDtVx (x : Reg) : Statement (.ldDtVx x) := (top_byte_fixed _ _ _).trans rfl

theorem ldStVx (x : Reg) : Statement (.ldStVx x) := (top_byte_fixed _ _ _).trans rfl

theorem addIVx (x : Reg) : Statement (.addIVx x) := (top_byte_fixed _ _ _).trans rfl

theorem ldFVx (x : Reg) : Statement (.ldFVx x) := (top_byte_fixed _ _ _).trans rfl

theorem ldBVx (x : Reg) : Statement (.ldBVx x) := (top_byte_fixed _ _ _).trans rfl

theorem ldMemVx (x : Reg) : Statement (.ldMemVx x) := (top_byte_fixed _ _ _).trans rfl

theorem ldVxMem (x : Reg) : Statement (.ldVxMem x) := (top_byte_fixed _ _ _).trans rfl

end Sys2Proof.Laws.EncodesInItsRow
end

