-- ==== Sys2Proof/Laws/Slot.lean ====
section
/-! SUPPORT. The position inside a tick is the sequencer's alone: no instruction looks at it. -/

namespace Sys2Proof.Machine

open Host

/-- An instruction neither reads nor writes the position inside the tick. -/
theorem exec_withSlot (i : Instr) (s : State) (k : Option Nat) :
    exec i (s.withSlot k) = mapNext (fun t => t.withSlot k) (exec i s) := by
  cases i
  case call nnn =>
    show execCall nnn _ = mapNext _ (execCall nnn s)
    by_cases h : s.sp < s.params.stackCap
    · rw [execCall_room s nnn h, execCall_room (s.withSlot k) nnn h]; rfl
    · rw [execCall_full s nnn (by omega), execCall_full (s.withSlot k) nnn (by simpa using h)]; rfl
  case ret x =>
    show execRet x _ = mapNext _ (execRet x s)
    cases h : s.sp with
    | zero => rw [execRet_empty s x h, execRet_empty (s.withSlot k) x h]; rfl
    | succ j => rw [execRet_pop s x h, execRet_pop (s.withSlot k) x h]; rfl
  case ldMemVx x =>
    show execLdMemVx x _ = mapNext _ (execLdMemVx x s)
    by_cases h : s.params.memSize ≤ s.i + x.val
    · rw [execLdMemVx_outside s x h, execLdMemVx_outside (s.withSlot k) x h]; rfl
    · rw [execLdMemVx_fits s x (by omega), execLdMemVx_fits (s.withSlot k) x (by rw [State.withSlot_i, State.withSlot_params]; omega)]
      show Outcome.next _ = Outcome.next _
      congr 1
      unfold State.stepI
      have : ((s.withSlot k).advance.writeBlock (s.withSlot k).i ((s.withSlot k).lowRegs x)) =
          (s.advance.writeBlock s.i (s.lowRegs x)).withSlot k := rfl
      rw [this, State.withSlot_params]; split <;> rfl
  case ldVxMem x =>
    show execLdVxMem x _ = mapNext _ (execLdVxMem x s)
    by_cases h : s.params.memSize ≤ s.i + x.val
    · rw [execLdVxMem_outside s x h, execLdVxMem_outside (s.withSlot k) x h]; rfl
    · rw [execLdVxMem_fits s x (by omega), execLdVxMem_fits (s.withSlot k) x (by rw [State.withSlot_i, State.withSlot_params]; omega)]
      show Outcome.next _ = Outcome.next _
      congr 1
      unfold State.stepI
      have : ((s.withSlot k).advance.withV ((s.withSlot k).loadedRegs x)) =
          (s.advance.withV (s.loadedRegs x)).withSlot k := rfl
      rw [this, State.withSlot_params]; split <;> rfl
  case skp x =>
    show execSkp x _ = mapNext _ (execSkp x s)
    by_cases h : s.params.numKeys ≤ (s.reg x).toNat
    · rw [execSkp_noKey s x h, execSkp_noKey (s.withSlot k) x h]; rfl
    · have h' := Nat.not_le.1 h
      rw [execSkp_key s x h', execSkp_key (s.withSlot k) x h', State.skipWhen_advance, State.skipWhen_advance]; rfl
  case sknp x =>
    show execSknp x _ = mapNext _ (execSknp x s)
    by_cases h : s.params.numKeys ≤ (s.reg x).toNat
    · rw [execSknp_noKey s x h, execSknp_noKey (s.withSlot k) x h]; rfl
    · have h' := Nat.not_le.1 h
      rw [execSknp_key s x h', execSknp_key (s.withSlot k) x h', State.skipWhen_advance, State.skipWhen_advance]; rfl
  case seImm x nn => show Outcome.next _ = Outcome.next _; rw [State.skipWhen_advance, State.skipWhen_advance]; rfl
  case sneImm x nn => show Outcome.next _ = Outcome.next _; rw [State.skipWhen_advance, State.skipWhen_advance]; rfl
  case seReg x nn _ => show Outcome.next _ = Outcome.next _; rw [State.skipWhen_advance, State.skipWhen_advance]; rfl
  case sneReg x nn _ => show Outcome.next _ = Outcome.next _; rw [State.skipWhen_advance, State.skipWhen_advance]; rfl
  case orReg x y =>
    show Outcome.next _ = Outcome.next _
    congr 1
    cases h : s.params.logicVfReset
    · rw [State.logic_off _ _ _ _ (by exact h), State.logic_off _ _ _ _ (by exact h)]; rfl
    · rw [State.logic_on _ _ _ _ (by exact h), State.logic_on _ _ _ _ (by exact h)]; rfl
  case andReg x y =>
    show Outcome.next _ = Outcome.next _
    congr 1
    cases h : s.params.logicVfReset
    · rw [State.logic_off _ _ _ _ (by exact h), State.logic_off _ _ _ _ (by exact h)]; rfl
    · rw [State.logic_on _ _ _ _ (by exact h), State.logic_on _ _ _ _ (by exact h)]; rfl
  case xorReg x y =>
    show Outcome.next _ = Outcome.next _
    congr 1
    cases h : s.params.logicVfReset
    · rw [State.logic_off _ _ _ _ (by exact h), State.logic_off _ _ _ _ (by exact h)]; rfl
    · rw [State.logic_on _ _ _ _ (by exact h), State.logic_on _ _ _ _ (by exact h)]; rfl
  case addReg x y =>
    show Outcome.next _ = Outcome.next _
    congr 1
    unfold State.arith
    cases h : s.params.vfAliasOrder <;> simp only [State.advance_params, State.withSlot_params, h] <;> rfl
  case subReg x y =>
    show Outcome.next _ = Outcome.next _
    congr 1
    unfold State.arith
    cases h : s.params.vfAliasOrder <;> simp only [State.advance_params, State.withSlot_params, h] <;> rfl
  case subnReg x y =>
    show Outcome.next _ = Outcome.next _
    congr 1
    unfold State.arith
    cases h : s.params.vfAliasOrder <;> simp only [State.advance_params, State.withSlot_params, h] <;> rfl
  all_goals rfl

/-- Nor does a cycle of fetch, decode and execute. -/
theorem instruction_withSlot (s : State) (k : Option Nat) :
    instruction (s.withSlot k) = mapNext (fun t => t.withSlot k) (instruction s) := by
  cases hf : s.fetch with
  | error a => rw [instruction_fetchFault hf, instruction_fetchFault (s := s.withSlot k) hf]; rfl
  | ok op =>
    cases hd : decode op with
    | ok i => rw [instruction_decoded hf hd, instruction_decoded (s := s.withSlot k) hf hd, exec_withSlot]
    | error r => rw [instruction_unrecognized hf hd, instruction_unrecognized (s := s.withSlot k) hf hd]; rfl

end Sys2Proof.Machine
end

