-- ==== Sys2Proof/Tests/Slice0.lean ====
section
/-! SUPPORT. Small tests, each about one step or one word, with expected results from spec/95_test_vectors.md (the vector's
number stands in each docstring), and for each obligation with hypotheses a state and operands that meet them. -/

namespace Sys2Proof.Tests

open Sys2Proof Sys2Proof.Machine

/-! ### Helpers -/

/-- The post-reset state with a value of `VF_ALIAS_ORDER`. -/
def start (order : Config.VfAliasOrder) : State :=
  State.reset.withParams { State.reset.params with vfAliasOrder := order }

/-- The start state of most vectors. -/
def base : State := start .flagLast

/-- A state with some registers set. -/
def regs (s : State) (l : List (Reg × Byte)) : State := l.foldl (fun t p => t.setReg p.1 p.2) s

/-- The other value of `DRAW_BCD_ADDR_MODE`. -/
def clamp (s : State) : State := s.withParams { s.params with addrMode := .clamp }

/-- `LOGIC_VF_RESET = true`. -/
def vfReset (s : State) : State := s.withParams { s.params with logicVfReset := true }

/-- `LOADSTORE_I_MODE = AddXPlus1`. -/
def addX (s : State) : State := s.withParams { s.params with loadStoreI := .addXPlus1 }

/-- One pixel on. -/
def lit (s : State) (r c : Nat) : State := s.withFb (setPixel s.fb r c true)

/-- A machine of other parameters: 1024 bytes of memory with the program at 256, the font at 16, eighteen registers, 13 bits
of I and PC, two stack entries, a display of 16 columns and 8 rows, eight keys, three words a tick, SOUND_QUIRK 5. -/
def small : State :=
  State.resetWith { base.params with
    memSize := 1024, progBase := 256, fontBase := 16, numRegs := 18, iWidth := 13, pcWidth := 13, stackCap := 2,
    dispW := 16, dispH := 8, numKeys := 8, batch := 3, soundQuirk := 5 }

/-- Some keys down. -/
def keysDown (l : List Nat) : List Bool := l.foldl (fun v k => setAt false v k true) (List.replicate 16 false)

/-- The word placed at the program counter, inside a tick. -/
def placed (w : Nat) (s : State) : State := s.withFetchWord 16 w

/-- A reading `f` of the state after one step; none unless the step answers a next state. -/
def look {α : Type} (f : State → α) (s : State) : Option α :=
  match step s with
  | .next t => some (f t)
  | .fault _ => none
  | .refused _ => none

/-- A reading of the state after the word `w` has run as the next instruction. -/
def after {α : Type} (w : Nat) (s : State) (f : State → α) : Option α := look f (placed w s)

/-- A state between ticks whose next command is `c`. -/
def commanded (c : HostCommand) (s : State) : State := s.withHost [c]

/-! ### WellFormed: the one check refuses an ill-formed term (R72, R180: 0 to 15 rows) -/

theorem test_wellFormed_rows_16 : (Instr.drw 0 0 16).wellFormed = false := by decide
theorem test_wellFormed_rows_15 : (Instr.drw 0 0 15).wellFormed = true := by decide

/-! ### Decoding: words written out from the patterns of R74 -/

theorem test_decode_group0 : decode 0x00E0 = .ok (.cls 0) ∧ decode 0x05E0 = .ok (.cls 5) ∧ decode 0x0FEE = .ok (.ret 15) := by
  decide
theorem test_decode_jumps :
    decode 0x1208 = .ok (.jp 0x208) ∧ decode 0x2210 = .ok (.call 0x210) ∧ decode 0xBFFF = .ok (.jpV0 0xFFF) := by decide
theorem test_decode_compares :
    decode 0x330A = .ok (.seImm 3 0x0A) ∧ decode 0x430A = .ok (.sneImm 3 0x0A) ∧ decode 0x512F = .ok (.seReg 1 2 0xF) ∧
    decode 0x9125 = .ok (.sneReg 1 2 5) := by decide
theorem test_decode_immediates :
    decode 0x6A7B = .ok (.ldImm 0xA 0x7B) ∧ decode 0x7F01 = .ok (.addImm 0xF 0x01) ∧ decode 0xA2F0 = .ok (.ldI 0x2F0) ∧
    decode 0xC30F = .ok (.rnd 3 0x0F) ∧ decode 0xD125 = .ok (.drw 1 2 5) := by decide
theorem test_decode_group8 :
    decode 0x8120 = .ok (.ldReg 1 2) ∧ decode 0x8121 = .ok (.orReg 1 2) ∧ decode 0x8122 = .ok (.andReg 1 2) ∧
    decode 0x8123 = .ok (.xorReg 1 2) ∧ decode 0x8014 = .ok (.addReg 0 1) ∧ decode 0x8235 = .ok (.subReg 2 3) := by decide
theorem test_decode_group8_shifts :
    decode 0x8436 = .ok (.shr 4 3) ∧ decode 0x8127 = .ok (.subnReg 1 2) ∧ decode 0x81FE = .ok (.shl 1 0xF) := by decide
theorem test_decode_groupE : decode 0xE19E = .ok (.skp 1) ∧ decode 0xE1A1 = .ok (.sknp 1) := by decide
theorem test_decode_groupF_timers :
    decode 0xF307 = .ok (.ldVxDt 3) ∧ decode 0xF20A = .ok (.ldVxK 2) ∧ decode 0xF015 = .ok (.ldDtVx 0) ∧
    decode 0xF018 = .ok (.ldStVx 0) := by decide
theorem test_decode_groupF_memory :
    decode 0xF51E = .ok (.addIVx 5) ∧ decode 0xFF29 = .ok (.ldFVx 0xF) ∧ decode 0xFA33 = .ok (.ldBVx 0xA) ∧
    decode 0xF155 = .ok (.ldMemVx 1) ∧ decode 0xF265 = .ok (.ldVxMem 2) := by decide
/-- U1, U2, U3: words that no row matches. -/
theorem test_decode_unrecognized_groups_0_8 :
    decode 0x0000 = .error (.unrecognized 0x0000) ∧ decode 0x0123 = .error (.unrecognized 0x0123) ∧
    decode 0x8128 = .error (.unrecognized 0x8128) ∧ decode 0x812D = .error (.unrecognized 0x812D) := by decide
/-- U4, U5: words that no row matches. -/
theorem test_decode_unrecognized_groups_E_F :
    decode 0xE1A2 = .error (.unrecognized 0xE1A2) ∧ decode 0xE19F = .error (.unrecognized 0xE19F) ∧
    decode 0xF1FF = .error (.unrecognized 0xF1FF) ∧ decode 0xF166 = .error (.unrecognized 0xF166) := by decide
/-- The encoder writes the same words. -/
theorem test_encode :
    encode (.jp 0x208) = 0x1208 ∧ encode (.rnd 3 0x0F) = 0xC30F ∧ encode (.drw 1 2 5) = 0xD125 ∧
    encode (.shl 1 0xF) = 0x81FE ∧ encode (.sneReg 1 2 5) = 0x9125 ∧ encode (.ldVxMem 2) = 0xF265 := by decide
/-- R53: the high byte of a word lies at the lower address, and one byte alone is no word. -/
theorem test_decode_bytes :
    decodeBytes [0x6A, 0x7B, 0x12] = .ok (.ldImm 0xA 0x7B, [0x12]) ∧ decodeBytes [0x6A] = .error .tooShort := by decide

/-! ### Control transfer -/

/-- E8, CF6. -/
theorem test_ret_pops :
    after 0x00EE (base.withStack (setAt 0 base.stack 0 0x206) 1) (fun t => (t.pc, t.sp)) = some (0x206, 0) := by decide
/-- CF7. -/
theorem test_ret_empty_halts :
    after 0x00EE base (fun t => (t.mode, t.fault, t.pc)) =
      some (.halted, some ⟨.stackUnderflow, 0x200, some 0x00EE, 0⟩, 0x200) := by decide
/-- CF1. -/
theorem test_jp : after 0x1208 base (fun t => t.pc) = some 0x208 := by decide
/-- CF4. -/
theorem test_call : after 0x2210 base (fun t => (t.entry 0, t.sp, t.pc)) = some (0x202, 1, 0x210) := by decide
/-- CF5. -/
theorem test_call_full_halts :
    after 0x2210 (base.withStack base.stack 48) (fun t => (t.fault, t.sp, t.pc)) =
      some (some ⟨.stackOverflow, 0x200, some 0x2210, 48⟩, 48, 0x200) := by decide
/-- CF10. -/
theorem test_jpV0_past_memory : after 0xBFFF (regs base [(0, 0xFF)]) (fun t => t.pc) = some 0x10FE := by decide
/-- CF11: V3 is not the offset. -/
theorem test_jpV0_uses_v0 : after 0xB300 (regs base [(3, 0x50)]) (fun t => t.pc) = some 0x300 := by decide
/-- CF12, CF13. -/
theorem test_seImm :
    after 0x330A (regs base [(3, 0x0A)]) (fun t => t.pc) = some 0x204 ∧
    after 0x330A (regs base [(3, 0x0B)]) (fun t => t.pc) = some 0x202 := by decide
/-- CF14, CF15. -/
theorem test_sneImm :
    after 0x430A (regs base [(3, 0x0B)]) (fun t => t.pc) = some 0x204 ∧
    after 0x430A (regs base [(3, 0x0A)]) (fun t => t.pc) = some 0x202 := by decide
/-- CF17, CF18: N is ignored. -/
theorem test_seReg :
    after 0x512F (regs base [(1, 7), (2, 7)]) (fun t => t.pc) = some 0x204 ∧
    after 0x5120 (regs base [(1, 7), (2, 8)]) (fun t => t.pc) = some 0x202 := by decide
/-- CF20, CF21: N is ignored. -/
theorem test_sneReg :
    after 0x9120 (regs base [(1, 1), (2, 2)]) (fun t => t.pc) = some 0x204 ∧
    after 0x9125 (regs base [(1, 3), (2, 3)]) (fun t => t.pc) = some 0x202 := by decide

/-! ### Registers and ALU -/

/-- A1. -/
theorem test_ldImm : after 0x6A7B base (fun t => t.reg 0xA) = some 0x7B := by decide
/-- A3: the sum wraps and VF stays. -/
theorem test_addImm : after 0x7001 (regs base [(0, 0xFF)]) (fun t => (t.reg 0, t.reg 15)) = some (0, 0) := by decide
/-- A5. -/
theorem test_ldReg : after 0x8120 (regs base [(2, 0x33)]) (fun t => t.reg 1) = some 0x33 := by decide
/-- A6, A7. -/
theorem test_orReg :
    after 0x8121 (regs base [(1, 0x0F), (2, 0xF0), (15, 9)]) (fun t => (t.reg 1, t.reg 15)) = some (0xFF, 9) ∧
    after 0x8121 (vfReset (regs base [(1, 0x0F), (2, 0xF0), (15, 9)])) (fun t => (t.reg 1, t.reg 15)) = some (0xFF, 0) := by
  decide
/-- A8. -/
theorem test_andReg : after 0x8122 (regs base [(1, 0x3C), (2, 0x0F)]) (fun t => t.reg 1) = some 0x0C := by decide
/-- A9. -/
theorem test_xorReg : after 0x8123 (regs base [(1, 0xFF), (2, 0x0F)]) (fun t => t.reg 1) = some 0xF0 := by decide
/-- A11. -/
theorem test_addReg : after 0x8014 (regs base [(0, 0xFF), (1, 2)]) (fun t => (t.reg 0, t.reg 15)) = some (1, 1) := by decide
/-- A33: X is VF, under each order. -/
theorem test_addReg_alias :
    [Config.VfAliasOrder.flagLast, .resultLast, .flagFirstReread].map
      (fun o => after 0x8F14 (regs (start o) [(15, 0xFF), (1, 2)]) (fun t => (t.reg 1, t.reg 15))) =
    [some (2, 1), some (2, 1), some (2, 3)] := by decide
/-- A13. -/
theorem test_subReg : after 0x8235 (regs base [(2, 5), (3, 7)]) (fun t => (t.reg 2, t.reg 15)) = some (0xFE, 0) := by decide
/-- A36. -/
theorem test_subReg_alias :
    [Config.VfAliasOrder.flagLast, .resultLast, .flagFirstReread].map
      (fun o => after 0x8F15 (regs (start o) [(15, 5), (1, 7)]) (fun t => t.reg 15)) =
    [some 0x00, some 0xFE, some 0xF9] := by decide
/-- A15. -/
theorem test_subnReg :
    after 0x8127 (regs base [(1, 0x10), (2, 0x30)]) (fun t => (t.reg 1, t.reg 15)) = some (0x20, 1) := by decide
/-- A40: Y is VF, under each order. -/
theorem test_subnReg_alias :
    [Config.VfAliasOrder.flagLast, .resultLast, .flagFirstReread].map
      (fun o => after 0x81F7 (regs (start o) [(1, 3), (15, 5)]) (fun t => (t.reg 1, t.reg 15))) =
    [some (0x02, 1), some (0x02, 1), some (0xFE, 1)] := by decide
/-- A18: V3 stays. -/
theorem test_shr :
    after 0x8436 (regs base [(3, 7)]) (fun t => (t.reg 4, t.reg 15, t.reg 3)) = some (3, 1, 7) := by decide
/-- A26, A28: VF as X, and as Y. -/
theorem test_shr_alias :
    after 0x8F16 (regs base [(1, 3)]) (fun t => t.reg 15) = some 0 ∧
    after 0x81F6 (regs base [(15, 5)]) (fun t => (t.reg 1, t.reg 15)) = some (2, 1) := by decide
/-- A20. -/
theorem test_shl : after 0x812E (regs base [(2, 0x81)]) (fun t => (t.reg 1, t.reg 15)) = some (2, 1) := by decide
/-- A29, A30, A31: VF as X. -/
theorem test_shl_alias :
    after 0x8F1E (regs base [(1, 0x80)]) (fun t => t.reg 15) = some 2 ∧
    after 0x8F1E (regs base [(1, 0x7F)]) (fun t => t.reg 15) = some 0 ∧
    after 0x8FFE (regs base [(15, 0xFF)]) (fun t => t.reg 15) = some 2 := by decide
/-- A23: with the draw 0xA7 the register holds 0x07. -/
theorem test_rnd_mask : ((base.maskedDraw 3 0x0F 0xA7).reg 3) = 0x07 := by decide

/-! ### The address register and memory -/

/-- M1. -/
theorem test_ldI : after 0xA2F0 base (fun t => t.i) = some 0x2F0 := by decide
/-- M3, M4: no wrap at 12 bits, a wrap at 16; VF stays. -/
theorem test_addIVx :
    after 0xF01E ((regs base [(0, 1)]).withI 0x0FFF) (fun t => (t.i, t.reg 15)) = some (0x1000, 0) ∧
    after 0xF01E ((regs base [(0, 2)]).withI 0xFFFF) (fun t => (t.i, t.reg 15)) = some (0x0001, 0) := by decide
/-- M6, M8: the byte is not masked. -/
theorem test_ldFVx :
    after 0xF029 (regs base [(0, 0x0F)]) (fun t => t.i) = some 0x4B ∧
    after 0xF029 (regs base [(0, 0xFF)]) (fun t => t.i) = some 0x4FB := by decide
/-- M13: the address wraps into the font. -/
theorem test_ldBVx_modulo :
    after 0xF033 ((regs base [(0, 123)]).withI 0xFFF) (fun t => [t.byteAt 0xFFF, t.byteAt 0, t.byteAt 1]) =
      some [1, 2, 3] := by decide
/-- M14: the last digit lands on the last byte. -/
theorem test_ldBVx_clamp :
    after 0xF033 (clamp ((regs base [(0, 123)]).withI 0xFFF)) (fun t => [t.byteAt 0xFFF, t.byteAt 0, t.byteAt 1]) =
      some [3, 0xF0, 0x90] := by decide
/-- M17, M18. -/
theorem test_ldMemVx :
    after 0xF155 ((regs base [(0, 1), (1, 2)]).withI 0x400) (fun t => ([t.byteAt 0x400, t.byteAt 0x401], t.i)) =
      some ([1, 2], 0x400) ∧
    after 0xF155 (addX ((regs base [(0, 1), (1, 2)]).withI 0x400)) (fun t => t.i) = some 0x402 := by decide
/-- M20: the block ends outside memory, so nothing is stored. -/
theorem test_ldMemVx_outside_halts :
    after 0xFF55 ((regs base [(0, 1), (1, 2)]).withI 0xFF1) (fun t => (t.fault, [t.byteAt 0xFF1, t.byteAt 0xFF2], t.pc)) =
      some (some ⟨.memoryOutOfBounds, 0x200, some 0xFF55, 0x1000⟩, [0, 0], 0x200) := by decide
/-- M21. -/
theorem test_ldVxMem :
    after 0xF265 ((base.writeBlock 0x300 [1, 2, 3]).withI 0x300) (fun t => [t.reg 0, t.reg 1, t.reg 2, t.reg 3]) =
      some [1, 2, 3, 0] := by decide
/-- M23. -/
theorem test_ldVxMem_outside_halts :
    after 0xF165 (base.withI 0xFFF) (fun t => t.fault) =
      some (some ⟨.memoryOutOfBounds, 0x200, some 0xF165, 0x1000⟩) := by decide

/-! ### Display -/

/-- D15: VF stays. -/
theorem test_cls :
    after 0x00E0 (lit (regs base [(15, 7)]) 31 63) (fun t => (decide (t.fb = blankFrame t.params), t.reg 15)) = some (true, 7) := by
  decide
/-- D8: the right edge clips, and a lit pixel under a set bit is a collision. -/
theorem test_drw_clips_and_collides :
    after 0xD121 (lit ((regs (base.writeBlock 0x300 [0xFF]) [(1, 60)]).withI 0x300) 0 63)
      (fun t => ([pixelAt t.fb 0 60, pixelAt t.fb 0 62, pixelAt t.fb 0 63, pixelAt t.fb 0 0], t.reg 15)) =
      some ([true, true, false, false], 1) := by decide
/-- D14: VF is the column before it is the flag. -/
theorem test_drw_vf_column :
    after 0xDF15 ((regs base [(15, 4), (1, 2)]).withI 5)
      (fun t => ([pixelAt t.fb 2 6, pixelAt t.fb 3 5, pixelAt t.fb 6 7, pixelAt t.fb 6 8], t.reg 15)) =
      some ([true, true, true, false], 0) := by decide

/-! ### Timers and keys -/

/-- T6. -/
theorem test_ldVxDt : after 0xF307 (base.withDt 0x3C) (fun t => t.reg 3) = some 0x3C := by decide
/-- T2. -/
theorem test_ldDtVx : after 0xF015 (regs base [(0, 1)]) (fun t => t.dt) = some 1 := by decide
/-- E10, T4. -/
theorem test_ldStVx :
    after 0xF018 (regs base [(0, 1)]) (fun t => t.st) = some 3 ∧
    after 0xF018 (regs base [(0, 2)]) (fun t => t.st) = some 2 := by decide
/-- T10, T11. -/
theorem test_skp :
    after 0xE19E ((regs base [(1, 5)]).withKeys (keysDown [5])) (fun t => t.pc) = some 0x204 ∧
    after 0xE19E (regs base [(1, 5)]) (fun t => t.pc) = some 0x202 := by decide
/-- T14. -/
theorem test_skp_noKey_halts :
    after 0xE09E (regs base [(0, 0x10)]) (fun t => t.fault) =
      some (some ⟨.keyIndexOutOfRange, 0x200, some 0xE09E, 0x10⟩) := by decide
/-- T12, T13. -/
theorem test_sknp :
    after 0xE1A1 (regs base [(1, 5)]) (fun t => t.pc) = some 0x204 ∧
    after 0xE1A1 ((regs base [(1, 5)]).withKeys (keysDown [5])) (fun t => t.pc) = some 0x202 := by decide
/-- T15. -/
theorem test_sknp_noKey_halts :
    after 0xE0A1 (regs base [(0, 0xFF)]) (fun t => t.fault) =
      some (some ⟨.keyIndexOutOfRange, 0x200, some 0xE0A1, 0xFF⟩) := by decide
/-- T16. -/
theorem test_ldVxK :
    after 0xF20A base (fun t => (t.mode, t.waitX, t.waitKey, t.pc)) = some (.awaitingKey, 2, none, 0x202) := by decide
/-- T17: the least key. -/
theorem test_wait_latches :
    look (fun t => (t.waitKey, t.mode)) (commanded (.tick (keysDown [9, 3])) (base.armWait 2)) =
      some (some 3, .awaitingKey) := by decide
/-- T19. -/
theorem test_wait_resolves :
    look (fun t => (t.reg 2, t.mode, t.waitKey)) (commanded (.tick (keysDown [9])) ((base.armWait 2).withWait 2 (some 3))) =
      some (3, .running, none) := by decide

/-! ### The cycle and the commands -/

/-- U2. -/
theorem test_unrecognized : after 0x0123 base (fun t => (t.pc, t.unrec)) = some (0x202, 1) := by decide
/-- F4: the second byte of the word does not exist. -/
theorem test_fetch_at_the_edge_halts :
    look (fun t => t.fault) ((base.withPc 0x0FFF).withSlot (some 0)) =
      some (some ⟨.memoryOutOfBounds, 0x0FFF, none, 0x1000⟩) := by decide
/-- F5. -/
theorem test_fetch_outside_halts :
    look (fun t => t.fault) ((base.withPc 0x10FE).withSlot (some 0)) =
      some (some ⟨.memoryOutOfBounds, 0x10FE, none, 0x10FE⟩) := by decide
/-- T7: the timers stop at zero. -/
theorem test_timers_floor : look (fun t => (t.dt, t.st)) ((base.withSt 3).withSlot (some 10)) = some (0, 2) := by decide
/-- E9. -/
theorem test_load_twice_refused :
    look (fun t => t.answer) (commanded (.load [1]) (base.withLoaded true)) = some (some .refused) := by decide

/-! ### Other parameters (R6, R7: no definition inlines a default) -/

/-- R54, R112: the end of a smaller memory and of a smaller stack. -/
theorem test_small_bounds :
    after 0xF155 (small.withI 1023) (fun t => t.fault) = some (some ⟨.memoryOutOfBounds, 0x100, some 0xF155, 1024⟩) ∧
    after 0x2210 (small.withStack small.stack 2) (fun t => t.fault) =
      some (some ⟨.stackOverflow, 0x100, some 0x2210, 2⟩) := by decide
/-- R162, R202: the font's base, and the sound quirk's value. -/
theorem test_small_values :
    after 0xF029 (regs small [(0, 2)]) (fun t => (t.i, t.byteAt 26, t.byteAt 15)) = some (26, 0xF0, 0) ∧
    after 0xF018 (regs small [(0, 1)]) (fun t => t.st) = some 5 := by decide
/-- R182: the start wraps at the smaller display's edges, and the advance clips there. -/
theorem test_small_display :
    after 0xD122 ((regs (small.writeBlock 0x300 [0xC0, 0xC0]) [(1, 31), (2, 15)]).withI 0x300)
      (fun t => ([pixelAt t.fb 7 15, pixelAt t.fb 7 16, pixelAt t.fb 7 0, pixelAt t.fb 8 15], t.fb.shaped t.params)) =
      some ([true, false, false, false], true) := by decide
/-- R161, R96: I and PC wrap at their own widths. -/
theorem test_small_widths :
    after 0xF01E ((regs small [(0, 2)]).withI 0x1FFF) (fun t => t.i) = some 1 ∧
    (small.withPc 0x1FFE).advance.pc = 0 ∧ small.v.length = 18 := by decide
/-- R206: key 7 is the last of eight. -/
theorem test_small_keys :
    after 0xE19E ((regs small [(1, 7)]).withKeys (keysDown [7])) (fun t => t.pc) = some 0x104 ∧
    after 0xE19E (regs small [(1, 8)]) (fun t => t.fault) =
      some (some ⟨.keyIndexOutOfRange, 0x100, some 0xE19E, 8⟩) := by decide
/-- R93: the batch ends after three words. -/
theorem test_small_batch : look (fun t => (t.slot, t.dt)) ((small.withDt 9).withSlot (some 3)) = some (none, 8) := by decide

/-! ### Every statement's hypotheses can be met

Each theorem is named after its obligation; several theorems where the statement has several clauses. -/

theorem witness_DecodeOfEncode : (Instr.drw 15 0 15).wellFormed = true := by decide

theorem witness_EncodeOfDecode : decode 0xFFFF = .error (.unrecognized 0xFFFF) ∧ decode 0xDFFF = .ok (.drw 15 15 15) := by
  decide

/-- `StepRunsTheDecodedInstruction`, at the last slot and at the last address. -/
theorem witness_StepRuns :
    let s := ((base.withPc 0xFFE).writeBlock 0xFFE [0x00, 0xE0]).withSlot (some 9)
    s.slot = some 9 ∧ 9 < s.params.batch ∧ s.mode = .running ∧ s.memRead s.pc = some 0x00 ∧
      s.memRead (s.pc + 1) = some 0xE0 ∧ decode (joinBytes 0x00 0xE0) = .ok (.cls 0) := by decide

theorem witness_Unrecognized :
    let s := placed 0x8128 base
    s.slot = some 0 ∧ 0 < s.params.batch ∧ s.mode = .running ∧ s.memRead s.pc = some 0x81 ∧
      s.memRead (s.pc + 1) = some 0x28 ∧ decode (joinBytes 0x81 0x28) = .error (.unrecognized 0x8128) := by decide

theorem witness_FetchOutside :
    let s := (base.withPc 4095).withSlot (some 0)
    s.slot = some 0 ∧ 0 < s.params.batch ∧ s.mode = .running ∧ s.params.memSize ≤ s.pc + 1 := by decide

theorem witness_HaltedStep :
    let s := placed 0x00EE base
    s.slot = some 0 ∧ 0 < s.params.batch ∧ s.mode = .running ∧ s.memRead s.pc = some 0x00 ∧
      s.memRead (s.pc + 1) = some 0xEE ∧ decode (joinBytes 0x00 0xEE) = .ok (.ret 0) ∧
      look (fun t => t.mode) s = some .halted := by decide

/-- `ExecHaltsExactlyByTheCauseTable`, on both sides of each row's bound. -/
theorem witness_ExecHalts :
    base.mode = .running ∧
    fatalCause (base.withStack base.stack 48) (.call 0) = some (.stackOverflow, 48) ∧
    fatalCause (base.withStack base.stack 47) (.call 0) = none ∧
    fatalCause base (.ret 0) = some (.stackUnderflow, 0) ∧ fatalCause (base.withStack base.stack 1) (.ret 0) = none ∧
    fatalCause (base.withI 0xFF1) (.ldMemVx 15) = some (.memoryOutOfBounds, 4096) ∧
    fatalCause (base.withI 0xFF0) (.ldMemVx 15) = none ∧
    fatalCause (base.withI 0x2000) (.ldVxMem 0) = some (.memoryOutOfBounds, 0x2000) ∧
    fatalCause (base.withI 0xFFF) (.ldVxMem 0) = none ∧
    fatalCause (regs base [(1, 16)]) (.skp 1) = some (.keyIndexOutOfRange, 16) ∧
    fatalCause (regs base [(1, 15)]) (.sknp 1) = none ∧ fatalCause base (.cls 0) = none := by decide

theorem witness_RetPops :
    (base.withStack base.stack 1).sp = 0 + 1 ∧ (base.withStack base.stack 48).sp = 47 + 1 := by decide

theorem witness_CallPushes : base.sp < base.params.stackCap ∧ (base.withStack base.stack 47).sp < base.params.stackCap := by decide

theorem witness_RetAfterCall :
    (base.withStack base.stack 47).sp < base.params.stackCap ∧ ∃ t, exec (.call 0x210) (base.withStack base.stack 47) = .next t :=
  ⟨by decide, _, rfl⟩

/-- `KeySkipsReadTheLatch`, with the last key down and up. -/
theorem witness_KeySkips :
    ((regs base [(1, 15)]).reg 1).toNat < base.params.numKeys ∧
    ((regs base [(1, 15)]).withKeys (keysDown [15])).key 15 = true ∧ (regs base [(1, 15)]).key 15 = false := by decide

/-- `LogicOpsWorkBitwise`: each instruction, and each value of the parameter. -/
theorem witness_LogicOps :
    (∃ i op fixed, i = Instr.orReg 15 1 ∧ op = or ∧ fixed = (0x8001 : Word)) ∧
    (∃ i op fixed, i = Instr.andReg 1 2 ∧ op = and ∧ fixed = (0x8002 : Word)) ∧
    (∃ i op fixed, i = Instr.xorReg 1 1 ∧ op = xor ∧ fixed = (0x8003 : Word)) ∧
    (vfReset base).params.logicVfReset = true ∧ base.params.logicVfReset = false :=
  ⟨⟨_, _, _, rfl, rfl, rfl⟩, ⟨_, _, _, rfl, rfl, rfl⟩, ⟨_, _, _, rfl, rfl, rfl⟩, rfl, rfl⟩

/-- `BcdStoresThreeDigits`: distinct addresses, a wrap, and all three addresses the same one. -/
theorem witness_Bcd :
    base.mem.wf base.params = true ∧ 0 < base.params.memSize ∧
    [(base.withI 0xFFF).reduced 0, (base.withI 0xFFF).reduced 1, (base.withI 0xFFF).reduced 2] = [4095, 0, 1] ∧
    [(clamp (base.withI 0xFFF)).reduced 0, (clamp (base.withI 0xFFF)).reduced 1, (clamp (base.withI 0xFFF)).reduced 2] =
      [4095, 4095, 4095] := by decide

/-- `StoreBlockStoresTheRegisters` and `LoadBlockLoadsTheRegisters`, at the end of memory. -/
theorem witness_StoreBlock :
    (base.withI 0xFF0).mem.wf base.params = true ∧ (base.withI 0xFF0).i + (15 : Reg).val < base.params.memSize := by decide

theorem witness_LoadBlock : (base.withI 0xFFF).i + (0 : Reg).val < base.params.memSize := by decide

theorem witness_LoadBlockReadsBack :
    (base.withI 0xFF0).mem.wf base.params = true ∧ (base.withI 0xFF0).i + (15 : Reg).val < base.params.memSize ∧
      ∃ t, exec (.ldMemVx 15) (base.withI 0xFF0) = .next t :=
  ⟨by decide, by decide, _, rfl⟩

theorem witness_CanonicalMemories :
    let p := base.params
    (writeCell p [] 0x300 1).wf p = true ∧ Memory.wf [(0x300, 1)] p = true ∧
      ∀ a, readCell p (writeCell p [] 0x300 1) a = readCell p [(0x300, 1)] a :=
  ⟨by decide, by decide, fun _ => rfl⟩

/-- `DrawingTwiceRestoresTheDisplay`: on a blank display, the coordinates in V0 and V1. -/
theorem witness_DrawingTwice :
    base.fb.shaped base.params = true ∧
    ∃ t, exec (.drw 0 1 5) base = .next t ∧ t.reg 0 = base.reg 0 ∧ t.reg 1 = base.reg 1 ∧
      ∀ r c, pixelAt base.fb r c = false :=
  ⟨by decide, _, rfl, by decide, by decide, pixelAt_blankFrame⟩

theorem witness_SecondDraw :
    ∃ t u, exec (.drw 0 1 5) base = .next t ∧ t.reg 0 = base.reg 0 ∧ t.reg 1 = base.reg 1 ∧
      exec (.drw 0 1 5) t = .next u :=
  ⟨_, _, rfl, by decide, by decide, rfl⟩

/-- `WaitingTickMakesOneCheck`: nothing latched; key 15 latched, down and up. -/
theorem witness_WaitingTick :
    let s := commanded (.tick (keysDown [15])) (base.armWait 2)
    s.slot = none ∧ s.host = [.tick (keysDown [15])] ∧ s.mode = .awaitingKey ∧ s.waitKey = none := by decide

theorem witness_WaitingTick_latched :
    let s := commanded (.tick (keysDown [15])) ((base.armWait 2).withWait 2 (some 15))
    s.slot = none ∧ s.mode = .awaitingKey ∧ s.waitKey = some 15 ∧ (keysDown [15]).getD 15 false = true ∧
      (keysDown []).getD 15 false = false := by decide

/-- `TimerInstructionsMoveTheTimers`, its last clause: ST is 1 before and after. -/
theorem witness_TimerInstructions :
    base.params.soundQuirk ≠ 1 ∧ ∃ t, exec (.cls 0) (base.withSt 1) = .next t ∧ t.st = 1 := ⟨by decide, _, rfl, rfl⟩

theorem witness_RunningTick :
    let s := commanded (.tick (keysDown [1])) base
    s.slot = none ∧ s.host = [.tick (keysDown [1])] ∧ s.mode = .running := by decide

/-- `BatchEndCountsTheTimersDown`: ten words have run; the block waits; it is Halted. -/
theorem witness_BatchEnd :
    (base.withSlot (some 10)).slot = some 10 ∧ (base.mode = .running → base.params.batch ≤ 10) ∧
    ((base.armWait 2).withSlot (some 1)).mode = .awaitingKey ∧ ((base.withMode .halted).withSlot (some 1)).mode = .halted := by
  decide

/-- `HaltedBlockIgnoresTicksAndLoads`, either command. -/
theorem witness_HaltedBlock :
    let s := base.withMode .halted
    s.slot = none ∧ s.mode = .halted ∧ (commanded (.tick (keysDown [])) s).host = [.tick (keysDown [])] ∧
      (commanded (.load [1]) s).host = [.load [1]] := by decide

/-- `TickIsWhatItsStepsDo`, in each mode. -/
theorem witness_TickIsWhatItsStepsDo :
    [base, base.armWait 2, base.withMode .halted].map (fun s =>
      ((commanded (.tick (keysDown [])) s).slot, (commanded (.tick (keysDown [])) s).host, s.mode)) =
    [(none, [.tick (keysDown [])], .running), (none, [.tick (keysDown [])], .awaitingKey),
      (none, [.tick (keysDown [])], .halted)] := by decide

/-- `ResetFollowsTheParameters`: the defaults, and a machine of other parameters. -/
theorem witness_ResetFollows : base.params.valid = true ∧ small.params.valid = true := by decide

theorem witness_ResetCommand :
    let s := commanded .reset (base.withMode .halted)
    s.slot = none ∧ s.host = [.reset] := by decide

/-- `LoadAnswersAndCopies`: an Ok load; a second load; a load of a Halted block. -/
theorem witness_LoadAnswers :
    let s := commanded (.load [1]) base
    s.slot = none ∧ s.host = [.load [1]] ∧ s.mem.wf s.params = true ∧ s.mode ≠ .halted ∧ s.loaded = false ∧
      ([1] : List Byte).length ≤ s.params.progMax ∧ (s.withLoaded true).loaded = true ∧ (s.withMode .halted).mode = .halted := by decide

/-- `LoadAnswersAndCopies`: the longest program, and one byte more. -/
theorem witness_LoadAnswers_length :
    (List.replicate 3584 (0 : Byte)).length ≤ base.params.progMax ∧ base.params.progMax < (List.replicate 3585 (0 : Byte)).length ∧
    (commanded (.load (List.replicate 3585 0)) base).host = [.load (List.replicate 3585 0)] := by
  rw [List.length_replicate, List.length_replicate]
  exact ⟨by decide, by decide, rfl⟩

theorem witness_OnlyNamedRegisters :
    (∃ t, exec (.addReg 1 2) base = .next t) ∧ writesReg base.params 14 (.addReg 1 2) = false ∧
      writesReg base.params 15 (.orReg 1 2) = false :=
  ⟨⟨_, rfl⟩, by decide, by decide⟩

/-- `OnlyStoredBytesChange`: the neighbours of a stored block. -/
theorem witness_OnlyStoredBytes :
    (∃ t, exec (.ldMemVx 1) (base.withI 0x400) = .next t) ∧ ¬ storesTo (base.withI 0x400) 0x3FF (.ldMemVx 1) ∧
      ¬ storesTo (base.withI 0x400) 0x402 (.ldMemVx 1) ∧ ¬ storesTo (base.withI 0xFFF) 2 (.ldBVx 0) :=
  ⟨⟨_, rfl⟩, by unfold storesTo; decide, by unfold storesTo; decide, by unfold storesTo; decide⟩

theorem witness_OnlyNamedInstructions :
    (∃ t, exec (.ldImm 1 2) base = .next t) ∧ (∀ x, Instr.ldImm 1 2 ≠ .cls x) ∧ (∀ nnn, Instr.ldImm 1 2 ≠ .ldI nnn) ∧
      base.params.loadStoreI = .unchanged ∧ (addX base).params.loadStoreI ≠ .unchanged :=
  ⟨⟨_, rfl⟩, fun _ => by simp, fun _ => by simp, rfl, by decide⟩

theorem witness_OnlyWaitInstruction : (∃ t, exec (.ldDtVx 1) base = .next t) ∧ ∀ x, Instr.ldDtVx 1 ≠ .ldVxK x :=
  ⟨⟨_, rfl⟩, fun _ => by simp⟩

theorem witness_OtherInstructionsAdvance :
    (∃ t, exec (.ldImm 1 2) base = .next t) ∧ fatalCause base (.ldImm 1 2) = none ∧
      (∀ nnn, Instr.ldImm 1 2 ≠ .jp nnn ∧ Instr.ldImm 1 2 ≠ .jpV0 nnn ∧ Instr.ldImm 1 2 ≠ .call nnn) ∧
      (∀ x, Instr.ldImm 1 2 ≠ .ret x ∧ Instr.ldImm 1 2 ≠ .skp x ∧ Instr.ldImm 1 2 ≠ .sknp x) ∧
      (∀ x nn, Instr.ldImm 1 2 ≠ .seImm x nn ∧ Instr.ldImm 1 2 ≠ .sneImm x nn) ∧
      ∀ x y n, Instr.ldImm 1 2 ≠ .seReg x y n ∧ Instr.ldImm 1 2 ≠ .sneReg x y n :=
  ⟨⟨_, rfl⟩, rfl, by simp, by simp, by simp, by simp⟩

/-- `EveryStepKeepsTheInvariant`: a state inside a tick, with a return address at the bound and PC at the bound. -/
theorem witness_EveryStepKeeps :
    ∃ s t : State, s.Inv ∧ step s = .next t ∧ s.pc = 0x10FE ∧ s.entry 0 = 0x1000 ∧ s.slot = some 10 := by
  refine ⟨((base.withStack (setAt 0 base.stack 0 0x1000) 1).withPc 0x10FE).withSlot (some 10), _, ?_, rfl, rfl, rfl, rfl⟩
  refine ⟨by decide, rfl, by decide, rfl, rfl, nofun, by decide, by decide, by decide, by decide, nofun,
    fun k h => by cases h; decide, ?_, by decide⟩
  intro k
  show ((setAt 0 (List.replicate 48 0) 0 (0x1000 : Nat)).getD k 0) ≤ 4096
  rw [getD_setAt, List.getD_eq_getElem?_getD, List.getElem?_replicate]
  split
  · decide
  · split <;> decide

/-- `ModeChangesOnlyAsStated`: each of its causes happens. -/
theorem witness_ModeChanges :
    look (fun t => t.mode) (placed 0xF20A base) = some .awaitingKey ∧ look (fun t => t.mode) (placed 0x00EE base) = some .halted ∧
    look (fun t => t.mode) ((base.withPc 4095).withSlot (some 0)) = some .halted ∧
    look (fun t => t.mode) (commanded (.tick (keysDown [])) ((base.armWait 2).withWait 2 (some 3))) = some .running ∧
    look (fun t => t.mode) (commanded .reset (base.withMode .halted)) = some .running := by decide

theorem witness_NoStepChangesTheParameters : ∃ t, step (placed 0x00E0 (clamp base)) = .next t := ⟨_, rfl⟩

/-- `FaultReportIsWrittenOnce`: a Halted block at the end of its tick, and between ticks under each command but reset. -/
theorem witness_FaultReport :
    (∃ t, step ((base.withMode .halted).withSlot (some 3)) = .next t) ∧
    (∃ t, step (commanded (.tick (keysDown [1])) (base.withMode .halted)) = .next t) ∧
    (∃ t, step (commanded (.load [1]) (base.withMode .halted)) = .next t) ∧
    (base.withMode .halted).mode = .halted ∧
    (∀ rest, (commanded (.tick (keysDown [1])) (base.withMode .halted)).host ≠ .reset :: rest) :=
  ⟨⟨_, rfl⟩, ⟨_, rfl⟩, ⟨_, rfl⟩, rfl, fun _ h => by cases h⟩

/-- `PlacedWordRunsNext`, with a PC that a word fits at, and one that it does not. -/
theorem witness_PlacedWord :
    base.params.valid = true ∧ base.mem.wf base.params = true ∧ decodeTableWord 16 0x00E0 = some (.cls 0) ∧
    (placed 0x00E0 (base.withPc 4094)).pc = 4094 ∧ (placed 0x00E0 (base.withPc 4095)).pc = 512 := by decide

end Sys2Proof.Tests
end

/-! ## Scope (R6, R7): what reset makes of the parameters, and that every step keeps them -/

namespace Sys2Proof.Machine

/-! ### The default parameters (R6) -/

/-- The values of R6 fit one another (entry 15). -/
theorem valid_defaults : Config.defaults.valid = true := by decide

/-- Settles O45: each value is the one that R6 gives, and the values fit one another. -/
theorem resetHoldsTheDefaultParameters : Obligations.ResetHoldsTheDefaultParameters :=
  ⟨rfl, rfl, rfl, rfl, rfl, rfl, rfl, rfl, rfl, rfl, rfl, rfl, rfl, rfl, rfl, rfl, valid_defaults⟩

/-! ### What reset holds under any parameters (R38, R250, R251) -/

section ResetState

variable (p : Config.Params)

@[simp] theorem State.resetWith_reg (r : Nat) : (State.resetWith p).reg r = 0 := by
  simp [State.reg, State.resetWith]

@[simp] theorem State.resetWith_key (k : Nat) : (State.resetWith p).key k = false := by
  simp [State.key, State.resetWith]

@[simp] theorem State.resetWith_entry (k : Nat) : (State.resetWith p).entry k = 0 := by
  simp [State.entry, State.resetWith]

/-- The reset memory lists no cell, so each address reads as its reset byte (entry 10). -/
@[simp] theorem State.resetWith_byteAt (a : Nat) : (State.resetWith p).byteAt a = resetByte p a := rfl

variable {p}

/-- The font stands at FONT_BASE and up (R30). -/
theorem resetByte_fontBase_add {k : Nat} (h : k < p.font.length) : resetByte p (p.fontBase + k) = p.font[k] := by
  simp [resetByte, h]

/-- Outside the font a reset byte is 0x00 (R38). -/
theorem resetByte_outside_font {a : Nat} (h : a < p.fontBase ∨ p.fontBase + p.font.length ≤ a) :
    resetByte p a = 0 := by
  unfold resetByte
  split
  · exact List.getD_eq_default _ _ (by omega)
  · rfl

end ResetState

/-- Settles O46: the tables are filled with zeros, the display is blank, and memory reads as its reset bytes. -/
theorem resetFollowsTheParameters : Obligations.ResetFollowsTheParameters := by
  intro p _
  refine ⟨rfl, rfl, rfl, List.length_replicate, State.resetWith_reg p, List.length_replicate, State.resetWith_key p,
    List.length_replicate, State.resetWith_entry p, shaped_blankFrame, pixelAt_blankFrame, ?font, ?zeros, rfl⟩
  case font => exact fun k h => (State.resetWith_byteAt p _).trans (resetByte_fontBase_add h)
  case zeros => exact fun a h => (State.resetWith_byteAt p a).trans (resetByte_outside_font h)

/-! ### What no instruction touches (R28, R35, R37) -/

/-- The pieces of the state that no instruction writes: KEY, UNREC, LOADED, and the model's own parameters, slot, commands
and answer (entries 1, 2, 4). -/
structure Surroundings where
  keys : List Bool
  unrec : Nat
  loaded : Bool
  params : Config.Params
  slot : Option Nat
  host : List HostCommand
  answer : Option LoadAnswer

/-- The part of a state that no instruction writes. -/
def State.surroundings (s : State) : Surroundings where
  keys := s.keys
  unrec := s.unrec
  loaded := s.loaded
  params := s.params
  slot := s.slot
  host := s.host
  answer := s.answer

section Instructions

variable (s : State)

theorem State.surroundings_skipWhen (c : Bool) : (s.skipWhen c).surroundings = s.surroundings := by
  cases c <;> rfl

theorem State.surroundings_arith (f g : Byte → Byte → Byte) (x y : Nat) :
    (s.arith f g x y).surroundings = s.surroundings := by
  rw [State.arith_eq]
  rfl

theorem State.surroundings_logic (f : Byte → Byte → Byte) (x y : Nat) :
    (s.logic f x y).surroundings = s.surroundings := by
  obtain ⟨-, -, -, h⟩ := s.logic_spec f x y
  rw [h]
  rfl

theorem State.surroundings_stepI (x : Reg) : (s.stepI x).surroundings = s.surroundings := by
  rw [State.stepI_eq]
  rfl

/-- Every instruction answers a next state, a fatal error too (entry 9), and keeps the surroundings. -/
theorem exec_next (i : Instr) : ∃ t, exec i s = .next t ∧ t.surroundings = s.surroundings := by
  cases i
  case ret x =>
    cases h : s.sp with
    | zero => exact ⟨_, execRet_empty s x h, rfl⟩
    | succ k => exact ⟨_, execRet_pop s x h, rfl⟩
  case call nnn =>
    cases Nat.lt_or_ge s.sp s.params.stackCap with
    | inl h => exact ⟨_, execCall_room s nnn h, rfl⟩
    | inr h => exact ⟨_, execCall_full s nnn h, rfl⟩
  case skp x =>
    cases Nat.lt_or_ge (s.reg x).toNat s.params.numKeys with
    | inl h => exact ⟨_, execSkp_key s x h, State.surroundings_skipWhen _ _⟩
    | inr h => exact ⟨_, execSkp_noKey s x h, rfl⟩
  case sknp x =>
    cases Nat.lt_or_ge (s.reg x).toNat s.params.numKeys with
    | inl h => exact ⟨_, execSknp_key s x h, State.surroundings_skipWhen _ _⟩
    | inr h => exact ⟨_, execSknp_noKey s x h, rfl⟩
  case ldMemVx x =>
    cases Nat.lt_or_ge (s.i + x.val) s.params.memSize with
    | inl h => exact ⟨_, execLdMemVx_fits s x h, State.surroundings_stepI _ _⟩
    | inr h => exact ⟨_, execLdMemVx_outside s x h, rfl⟩
  case ldVxMem x =>
    cases Nat.lt_or_ge (s.i + x.val) s.params.memSize with
    | inl h => exact ⟨_, execLdVxMem_fits s x h, State.surroundings_stepI _ _⟩
    | inr h => exact ⟨_, execLdVxMem_outside s x h, rfl⟩
  case seImm | sneImm | seReg | sneReg => exact ⟨_, rfl, State.surroundings_skipWhen _ _⟩
  case orReg | andReg | xorReg => exact ⟨_, rfl, State.surroundings_logic _ _ _ _⟩
  case addReg | subReg | subnReg => exact ⟨_, rfl, State.surroundings_arith _ _ _ _ _⟩
  all_goals exact ⟨_, rfl, rfl⟩

/-- A cycle of fetch, decode and execute answers a next state and keeps the parameters. -/
theorem instruction_next : ∃ t, instruction s = .next t ∧ t.params = s.params := by
  cases hf : s.fetch with
  | error a => exact ⟨_, instruction_fetchFault hf, rfl⟩
  | ok op =>
    cases hd : decode op with
    | error r => exact ⟨_, instruction_unrecognized hf hd, rfl⟩
    | ok i =>
      obtain ⟨t, ht, hkept⟩ := exec_next s i
      exact ⟨t, (instruction_decoded hf hd).trans ht, congrArg Surroundings.params hkept⟩

end Instructions

theorem instruction_params {s t : State} (h : instruction s = .next t) : t.params = s.params := by
  obtain ⟨u, hu, hkept⟩ := instruction_next s
  cases hu.symm.trans h
  exact hkept

/-! ### The parameters through a step (R7) -/

section Parameters

variable (s : State)

@[simp] theorem State.waitCheck_params : s.waitCheck.params = s.params := by
  unfold State.waitCheck
  split
  · split <;> rfl
  · split <;> rfl

@[simp] theorem State.timerPhase_params : s.timerPhase.params = s.params := by
  unfold State.timerPhase
  split <;> rfl

@[simp] theorem State.beginTick_params (keys : List Bool) : (s.beginTick keys).params = s.params := by
  unfold State.beginTick
  split
  · rfl
  · simp
  · rfl

@[simp] theorem State.endTick_params : s.endTick.params = s.params := State.timerPhase_params _

@[simp] theorem State.load_params (bytes : List Byte) : (s.load bytes).params = s.params := by
  unfold State.load
  split <;> rfl

@[simp] theorem State.command_params (c : HostCommand) : (s.command c).params = s.params := by
  cases c with
  | reset => rfl
  | load bytes => exact s.load_params bytes
  | tick keys => exact s.beginTick_params keys

end Parameters

/-- Settles O58, by the four things that a step can be: an instruction, the end of a tick, nothing, a command. -/
theorem noStepChangesTheParameters : Obligations.NoStepChangesTheParameters := by
  intro s t h
  obtain ⟨k, u, -, -, -, hu, rfl⟩ | ⟨k, -, -, rfl⟩ | ⟨-, -, rfl⟩ | ⟨c, cs, -, -, rfl⟩ := step_cases h
  · exact (State.withSlot_params u _).trans (instruction_params hu)
  · exact s.endTick_params
  · rfl
  · exact State.command_params _ c

end Sys2Proof.Machine

/-! ## State (R20 to R38): what each instruction can do, the invariant, the mode, and the frame of each piece of state -/

namespace Sys2Proof.Machine

/-! ### What an instruction can do (R37) -/

/-- The register file `v` is one that instruction `i` may leave in state `s`: only the registers that it names have
changed, and where the sixteen that X and Y name exist, there are as many as before. -/
structure RegsAfter (s : State) (i : Instr) (v : List Byte) : Prop where
  kept : ∀ r, writesReg s.params r i = false → v.getD r 0 = s.reg r
  length : 16 ≤ s.v.length → v.length = s.v.length

/-- All that an instruction can make of state `s`: a fatal error, or the writes of its row of the access table (R37). -/
inductive Effect (s : State) : Instr → State → Prop
  | fatal {i kind info} (cause : fatalCause s i = some (kind, info)) :
    Effect s i (s.fatal kind (some (encode i)) info)
  | jump {i target} (bound : target ≤ max 0x10FE (s.pc + 4)) : Effect s i (s.withPc target)
  | pop (x : Reg) {k} (top : s.sp = k + 1) :
    Effect s (.ret x) ((s.advance.withStack s.stack k).withPc (s.entry k))
  | push (nnn : Addr12) (room : s.sp < s.params.stackCap) :
    Effect s (.call nnn)
      ((s.advance.withStack (setAt 0 s.stack s.sp ((s.pc + 2) % 2 ^ s.params.pcWidth)) (s.sp + 1)).withPc nnn.toNat)
  | regs {i v} (draws : Nat) (after : RegsAfter s i v) : Effect s i ((s.advance.withV v).withDraws draws)
  | clear (x : Reg) : Effect s (.cls x) (s.advance.withFb (blankFrame s.params))
  | draw (x y : Reg) (n : Nat) {out} (drawn : out = drawSprite s.params s.fb (s.reg y) (s.reg x) (s.spriteBytes n)) :
    Effect s (.drw x y n) ((s.advance.withFb out.1).setReg regF (bool2u8 out.2))
  | setIndex (nnn : Addr12) : Effect s (.ldI nnn) (s.advance.withI nnn.toNat)
  | addIndex (x : Reg) : Effect s (.addIVx x) (s.advance.withI ((s.i + (s.reg x).toNat) % 2 ^ s.params.iWidth))
  | glyph (x : Reg) : Effect s (.ldFVx x) (s.advance.withI (s.glyphAddr (s.reg x)))
  | bcd (x : Reg) : Effect s (.ldBVx x) (s.advance.storeBcd (s.reg x))
  | store (x : Reg) (fits : s.i + x.val < s.params.memSize) :
    Effect s (.ldMemVx x) ((s.advance.writeBlock s.i (s.lowRegs x)).withI (s.stepI x).i)
  | load (x : Reg) : Effect s (.ldVxMem x) ((s.advance.withV (s.loadedRegs x)).withI (s.stepI x).i)
  | delay (x : Reg) : Effect s (.ldDtVx x) (s.advance.withDt (s.reg x))
  | sound (x : Reg) : Effect s (.ldStVx x) (s.advance.withSt (s.soundValue (s.reg x)))
  | wait (x : Reg) : Effect s (.ldVxK x) (s.advance.armWait x)

section Effects

variable {s : State} {i : Instr}

/-- A skip goes at most two words on, since the reduction only lowers PC (R118). -/
theorem Effect.skipWhen (c : Bool) : Effect s i (s.advance.skipWhen c) := by
  rw [State.skipWhen_advance]
  refine .jump (le_max_of_le_right ((Nat.mod_le _ _).trans ?_))
  split <;> omega

/-- A write of a register that the instruction names. -/
theorem RegsAfter.setReg {x : Nat} (hx : x < 16) (b : Byte) (named : ∀ r, writesReg s.params r i = false → r ≠ x) :
    RegsAfter s i (setAt 0 s.v x b) where
  kept r hr := s.reg_setReg_ne b (named r hr)
  length h := s.length_setReg b (by omega)

theorem Effect.setReg {x : Nat} (hx : x < 16) (b : Byte) (named : ∀ r, writesReg s.params r i = false → r ≠ x) :
    Effect s i (s.advance.setReg x b) :=
  .regs s.draws (.setReg hx b named)

theorem Effect.logic (f : Byte → Byte → Byte) (x y : Reg)
    (named : ∀ r, writesReg s.params r i = false → r ≠ x.val ∧ (s.params.logicVfReset = true → r ≠ regF)) :
    Effect s i (s.advance.logic f x y) := by
  obtain ⟨-, -, kept, onlyRegs⟩ := s.advance.logic_spec f x y
  rw [onlyRegs]
  exact .regs s.draws
    { kept := fun r hr => kept r (named r hr).1 ((Bool.eq_false_or_eq_true _).symm.imp_right (named r hr).2)
      length := fun h => s.advance.length_logic f y (x.isLt.trans_le h) (Nat.lt_of_lt_of_le (by decide) h) }

theorem Effect.arith (f g : Byte → Byte → Byte) (x y : Reg)
    (named : ∀ r, writesReg s.params r i = false → r ≠ x.val ∧ r ≠ regF) : Effect s i (s.advance.arith f g x y) := by
  rw [State.arith_eq]
  exact .regs s.draws
    { kept := fun r hr => s.advance.arith_other f g x y (named r hr).1 (named r hr).2
      length := fun h => s.advance.length_arith f g y (x.isLt.trans_le h) (Nat.lt_of_lt_of_le (by decide) h) }

theorem Effect.shift (out move : Byte → Byte) (x y : Reg)
    (named : ∀ r, writesReg s.params r i = false → r ≠ x.val ∧ r ≠ regF) :
    Effect s i (s.advance.shift out move x y) := by
  obtain ⟨-, -, kept, -⟩ := s.advance.shift_spec out move x y
  exact .regs s.draws
    { kept := fun r hr => kept r (named r hr).1 (named r hr).2
      length := fun h => s.advance.length_shift out move y (x.isLt.trans_le h) (Nat.lt_of_lt_of_le (by decide) h) }

/-- FX55 and FX65 move I as their state before the block moves tells (R164, R165). -/
theorem State.stepI_of_eq {t : State} (x : Reg) (hi : t.i = s.i) (hp : t.params = s.params) :
    t.stepI x = t.withI (s.stepI x).i := by
  rw [State.stepI_eq, State.stepI_i, State.stepI_i, hi, hp]

/-- What `exec` answers is an effect of its instruction. -/
theorem exec_effect {t : State} (h : exec i s = .next t) : Effect s i t := by
  cases i
  case ret x =>
    cases hsp : s.sp with
    | zero => cases (execRet_empty s x hsp).symm.trans h; exact .fatal (if_pos hsp)
    | succ k => cases (execRet_pop s x hsp).symm.trans h; exact .pop x hsp
  case call nnn =>
    cases Nat.lt_or_ge s.sp s.params.stackCap with
    | inl hroom => cases (execCall_room s nnn hroom).symm.trans h; exact .push nnn hroom
    | inr hfull => cases (execCall_full s nnn hfull).symm.trans h; exact .fatal (if_pos hfull)
  case skp x =>
    cases Nat.lt_or_ge (s.reg x).toNat s.params.numKeys with
    | inl hkey => cases (execSkp_key s x hkey).symm.trans h; exact .skipWhen _
    | inr hkey => cases (execSkp_noKey s x hkey).symm.trans h; exact .fatal (if_pos hkey)
  case sknp x =>
    cases Nat.lt_or_ge (s.reg x).toNat s.params.numKeys with
    | inl hkey => cases (execSknp_key s x hkey).symm.trans h; exact .skipWhen _
    | inr hkey => cases (execSknp_noKey s x hkey).symm.trans h; exact .fatal (if_pos hkey)
  case ldMemVx x =>
    cases Nat.lt_or_ge (s.i + x.val) s.params.memSize with
    | inl hfit =>
      cases (execLdMemVx_fits s x hfit).symm.trans h
      rw [State.stepI_of_eq (s := s) (t := s.advance.writeBlock s.i _) x rfl rfl]
      exact .store x hfit
    | inr hout => cases (execLdMemVx_outside s x hout).symm.trans h; exact .fatal (if_pos hout)
  case ldVxMem x =>
    cases Nat.lt_or_ge (s.i + x.val) s.params.memSize with
    | inl hfit =>
      cases (execLdVxMem_fits s x hfit).symm.trans h
      rw [State.stepI_of_eq (s := s) (t := s.advance.withV _) x rfl rfl]
      exact .load x
    | inr hout => cases (execLdVxMem_outside s x hout).symm.trans h; exact .fatal (if_pos hout)
  all_goals cases h
  case jp nnn => exact .jump (by have := nnn.isLt; omega)
  case jpV0 nnn => exact .jump (by have := nnn.isLt; have := (s.reg reg0).isLt; omega)
  case seImm | sneImm | seReg | sneReg => exact .skipWhen _
  case ldImm | addImm | ldReg | ldVxDt => exact .setReg (Fin.isLt _) _ (by simp [writesReg])
  case rnd x nn => exact .regs (s.draws + 1) (.setReg x.isLt _ (by simp [writesReg]))
  case orReg | andReg | xorReg => exact .logic _ _ _ (by simp [writesReg])
  case addReg | subReg | subnReg => exact .arith _ _ _ _ (by simp [writesReg])
  case shr | shl => exact .shift _ _ _ _ (by simp [writesReg])
  case cls x => exact .clear x
  case drw x y n => exact .draw x y n rfl
  case ldI nnn => exact .setIndex nnn
  case addIVx x => exact .addIndex x
  case ldFVx x => exact .glyph x
  case ldBVx x => exact .bcd x
  case ldDtVx x => exact .delay x
  case ldStVx x => exact .sound x
  case ldVxK x => exact .wait x

end Effects

/-- A load that is Ok fits between PROG_BASE and the end of memory (R252). -/
theorem State.length_le_of_loadAnswer_ok {s : State} {bytes : List Byte} (h : s.loadAnswer bytes = .ok) :
    bytes.length ≤ s.params.memSize - s.params.progBase := by
  unfold State.loadAnswer at h
  split at h
  · cases h
  · split at h
    · cases h
    · next hfit => exact Nat.not_lt.1 hfit

/-! ### Each update keeps the invariant (R36) -/

section Invariant

variable {s : State} (hs : s.Inv)
include hs

theorem State.Inv.withV {v : List Byte} (hv : v.length = s.v.length) : (s.withV v).Inv :=
  { hs with regs_len := hv.trans hs.regs_len }

/-- X names a register that there is (R71, entry 15). -/
theorem State.Inv.sixteen_le : 16 ≤ s.v.length := by
  obtain ⟨-, -, -, -, -, -, -, hregs, -⟩ := valid_iff.1 hs.params_ok
  exact hs.regs_len.symm ▸ hregs

theorem State.Inv.setReg {x : Nat} (hx : x < 16) (b : Byte) : (s.setReg x b).Inv :=
  hs.withV (s.length_setReg b (hx.trans_le hs.sixteen_le))

theorem State.Inv.withI {a : Nat} (ha : a < 2 ^ s.params.iWidth) : (s.withI a).Inv := { hs with i_lt := ha }

theorem State.Inv.withPc {a : Nat} (ha : a ≤ max 0x10FE (s.params.memSize + 2)) : (s.withPc a).Inv :=
  { hs with pc_le := ha }

/-- PC past a fetched word is at most the end of memory (R53, R96). -/
theorem State.Inv.advance (hpc : s.pc + 1 < s.params.memSize) : s.advance.Inv :=
  hs.withPc ((Nat.mod_le _ _).trans (by omega))

theorem State.Inv.withStack {stack : List Nat} {sp : Nat} (hlen : stack.length = s.stack.length)
    (hsp : sp ≤ s.params.stackCap) (hle : ∀ k, stack.getD k 0 ≤ s.params.memSize) : (s.withStack stack sp).Inv :=
  { hs with stack_len := hlen.trans hs.stack_len, sp_le := hsp, stack_le := hle }

theorem State.Inv.withDt (b : Byte) : (s.withDt b).Inv := { hs with }

theorem State.Inv.withSt (b : Byte) : (s.withSt b).Inv := { hs with }

theorem State.Inv.withUnrec (n : Nat) : (s.withUnrec n).Inv := { hs with }

theorem State.Inv.withLoaded (b : Bool) : (s.withLoaded b).Inv := { hs with }

theorem State.Inv.withAnswer (a : Option LoadAnswer) : (s.withAnswer a).Inv := { hs with }

theorem State.Inv.withDraws (n : Nat) : (s.withDraws n).Inv := { hs with }

theorem State.Inv.withKeys {keys : List Bool} (hk : keys.length = s.params.numKeys) : (s.withKeys keys).Inv :=
  { hs with keys_len := hk }

theorem State.Inv.withHost {cs : List HostCommand}
    (hcs : ∀ keys, .tick keys ∈ cs → keys.length = s.params.numKeys) : (s.withHost cs).Inv :=
  { hs with host_ok := hcs }

theorem State.Inv.withSlot {k : Option Nat} (hk : ∀ n, k = some n → n ≤ s.params.batch) : (s.withSlot k).Inv :=
  { hs with slot_le := hk }

theorem State.Inv.withFb {fb : Frame} (hfb : fb.shaped s.params = true) : (s.withFb fb).Inv :=
  { hs with fb_shaped := hfb }

theorem State.Inv.withMem {m : Memory} (hm : m.wf s.params = true) : (s.withMem m).Inv := { hs with mem_wf := hm }

theorem State.Inv.writeBlock {a : Nat} {xs : List Byte} (h : a + xs.length ≤ s.params.memSize) :
    (s.writeBlock a xs).Inv :=
  hs.withMem (writeBytes_wf xs hs.mem_wf h)

/-- A byte stored at a reduced address is inside memory (R55). -/
theorem State.Inv.writeByte_reduce (a : Nat) (b : Byte) : (s.writeByte (reduce s.params a) b).Inv := by
  have hmem := (valid_iff.1 hs.params_ok).1
  exact hs.withMem (writeCell_wf _ b hs.mem_wf (reduce_inBounds (by omega) a))

/-- Outside AwaitingKey no key is latched (R33). -/
theorem State.Inv.waitKey_eq_none (hm : s.mode ≠ .awaitingKey) : s.waitKey = none := by
  rw [Option.eq_none_iff_forall_not_mem]
  exact fun k hk => hm (hs.latched k hk).1

/-- Outside Halted there is no fault report (R34). -/
theorem State.Inv.fault_eq_none (hm : s.mode ≠ .halted) : s.fault = none :=
  Option.not_isSome_iff_eq_none.1 fun h => hm (hs.halted_iff.2 h)

theorem State.Inv.fatal (hm : s.mode = .running) (kind : Fault) (op : Option Word) (info : Nat) :
    (s.fatal kind op info).Inv :=
  { hs with
    halted_iff := by simp
    latched := by simp [hs.waitKey_eq_none (by simp [hm])] }

/-- An armed wait has no key latched yet (R208). -/
theorem State.Inv.armWait (hm : s.mode ≠ .halted) (x : Reg) : (s.armWait x).Inv :=
  { hs with
    halted_iff := by simp [hs.fault_eq_none hm]
    latched := nofun }

/-- Phase 1 of the wait latches a key that there is (R209). -/
theorem State.Inv.latch (hm : s.mode = .awaitingKey) {k : Nat} (hk : k < s.params.numKeys) (x : Reg) :
    (s.withWait x (some k)).Inv :=
  { hs with latched := fun _ hj => by cases hj; exact ⟨hm, hk⟩ }

/-- Phase 2 of the wait ends it (R209). -/
theorem State.Inv.resolve (hm : s.mode ≠ .halted) (x : Reg) : ((s.withWait x none).withMode .running).Inv :=
  { hs with
    halted_iff := by simp [hs.fault_eq_none hm]
    latched := nofun }

/-! ### An instruction keeps the invariant -/

theorem State.Inv.storeBcd (b : Byte) : (s.storeBcd b).Inv :=
  ((hs.writeByte_reduce (s.indexed 0) _).writeByte_reduce (s.indexed 1) _).writeByte_reduce (s.indexed 2) _

/-- The glyph of every byte lies where I reaches (R162, entry 15). -/
theorem State.Inv.glyphAddr_lt (b : Byte) : s.glyphAddr b < 2 ^ s.params.iWidth := by
  obtain ⟨-, -, -, -, -, -, hglyph, -⟩ := valid_iff.1 hs.params_ok
  have hb := b.isLt
  have : s.glyphAddr b = s.params.fontBase + 5 * b.toNat := rfl
  omega

theorem State.Inv.stepI_lt (x : Reg) : (s.stepI x).i < 2 ^ s.params.iWidth := by
  rw [State.stepI_i]
  cases s.params.loadStoreI with
  | unchanged => exact hs.i_lt
  | addXPlus1 => exact Nat.mod_lt _ (Nat.two_pow_pos _)

/-- A CALL with room stores the address after itself, which is at most MEM_SIZE (R112). -/
theorem State.Inv.push (room : s.sp < s.params.stackCap) {a : Nat} (ha : a ≤ s.params.memSize) :
    (s.withStack (setAt 0 s.stack s.sp a) (s.sp + 1)).Inv := by
  refine hs.withStack (length_setAt 0 a (hs.stack_len.symm ▸ room)) room fun k => ?_
  rw [getD_setAt]
  split
  · exact ha
  · exact hs.stack_le k

/-- A Running block keeps the invariant through every effect of an instruction that lies inside memory. -/
theorem Effect.inv {i : Instr} {t : State} (h : Effect s i t) (hm : s.mode = .running)
    (hpc : s.pc + 1 < s.params.memSize) : t.Inv := by
  have hadv := hs.advance hpc
  obtain ⟨-, -, -, -, -, hnnn, -⟩ := valid_iff.1 hs.params_ok
  cases h with
  | fatal => exact hs.fatal hm _ _ _
  | jump bound => exact hs.withPc (by omega)
  | pop x top =>
    have hsp := hs.sp_le
    exact (hadv.withStack rfl (by simp; omega) hs.stack_le).withPc ((hs.stack_le _).trans (by simp))
  | push nnn room =>
    have hret : (s.pc + 2) % 2 ^ s.params.pcWidth ≤ s.params.memSize := (Nat.mod_le _ _).trans hpc
    exact (hadv.push room hret).withPc (by have := nnn.isLt; omega)
  | regs draws after => exact (hadv.withV (after.length hs.sixteen_le)).withDraws draws
  | clear => exact hadv.withFb shaped_blankFrame
  | draw x y n drawn =>
    subst drawn
    exact (hadv.withFb (shaped_drawSprite _ _ _ hs.fb_shaped)).setReg (by decide) _
  | setIndex nnn => exact hadv.withI (lt_of_le_of_lt (by have := nnn.isLt; omega) hnnn)
  | addIndex => exact hadv.withI (Nat.mod_lt _ (Nat.two_pow_pos _))
  | glyph => exact hadv.withI (hs.glyphAddr_lt _)
  | bcd => exact hadv.storeBcd _
  | store x fits => exact (hadv.writeBlock (by simp; omega)).withI (hs.stepI_lt x)
  | load x => exact (hadv.withV (s.length_loadedRegs x hs.sixteen_le)).withI (hs.stepI_lt x)
  | delay => exact hadv.withDt _
  | sound => exact hadv.withSt _
  | wait x => exact hadv.armWait (by simp [hm]) x

theorem instruction_inv {t : State} (h : instruction s = .next t) (hm : s.mode = .running) : t.Inv := by
  cases hf : s.fetch with
  | error a => cases (instruction_fetchFault hf).symm.trans h; exact hs.fatal hm _ _ _
  | ok op =>
    have hpc := State.pc_lt_of_fetch hf
    cases hd : decode op with
    | error r => cases (instruction_unrecognized hf hd).symm.trans h; exact (hs.advance hpc).withUnrec _
    | ok i => exact (exec_effect ((instruction_decoded hf hd).symm.trans h)).inv hs hm hpc

/-! ### The tick and the commands keep the invariant -/

theorem State.Inv.waitCheck (hm : s.mode = .awaitingKey) : s.waitCheck.Inv := by
  unfold State.waitCheck
  split
  · split
    · exact hs
    · next k hk => exact hs.latch hm (State.leastKeyDown_eq_some s hk).1 _
  · split
    · exact hs
    · exact (hs.setReg s.waitX.isLt _).resolve (by simp [hm]) _

theorem State.Inv.timerPhase : s.timerPhase.Inv := by
  unfold State.timerPhase
  split
  · exact (hs.withDt _).withSt _
  · exact (hs.withDt _).withSt _
  · exact hs

theorem State.Inv.endTick : s.endTick.Inv := (hs.withSlot (k := none) nofun).timerPhase

theorem State.Inv.beginTick {keys : List Bool} (hk : keys.length = s.params.numKeys) : (s.beginTick keys).Inv := by
  unfold State.beginTick
  split
  · exact (hs.withKeys hk).withSlot (by simp)
  · next hm => exact ((hs.withKeys hk).waitCheck hm).timerPhase
  · exact hs

theorem State.Inv.load (bytes : List Byte) : (s.load bytes).Inv := by
  have hbase := (valid_iff.1 hs.params_ok).1
  unfold State.load
  split
  · next hok =>
    have hfit := State.length_le_of_loadAnswer_ok hok
    exact ((hs.writeBlock (by omega)).withLoaded true).withAnswer _
  · exact hs.withAnswer _
  · exact hs.withAnswer _

end Invariant

/-- The reset state meets the invariant under any parameters that fit one another (R38, entry 15). -/
theorem State.resetWith_inv {p : Config.Params} (hp : p.valid = true) : (State.resetWith p).Inv where
  params_ok := hp
  mem_wf := rfl
  fb_shaped := shaped_blankFrame
  regs_len := List.length_replicate
  keys_len := List.length_replicate
  host_ok := nofun
  i_lt := Nat.two_pow_pos _
  stack_len := List.length_replicate
  sp_le := Nat.zero_le _
  halted_iff := by simp [State.resetWith]
  latched := nofun
  slot_le := nofun
  stack_le k := by simp
  pc_le := by
    have hbase := (valid_iff.1 hp).1
    exact le_max_of_le_right (show p.progBase ≤ p.memSize + 2 by omega)

theorem State.Inv.command {s : State} (hs : s.Inv) {c : HostCommand}
    (hc : ∀ keys, c = .tick keys → keys.length = s.params.numKeys) : (s.command c).Inv := by
  cases c with
  | reset => exact ((State.resetWith_inv hs.params_ok).withHost hs.host_ok).withDraws _
  | load bytes => exact hs.load bytes
  | tick keys => exact hs.beginTick (hc keys rfl)

/-- Settles O54, by the four things that a step can be: an instruction, the end of a tick, nothing, a command. -/
theorem everyStepKeepsTheInvariant : Obligations.EveryStepKeepsTheInvariant := by
  intro s t hs h
  obtain ⟨k, u, -, hk, hm, hu, rfl⟩ | ⟨k, -, -, rfl⟩ | ⟨-, -, rfl⟩ | ⟨c, cs, -, hhost, rfl⟩ := step_cases h
  · refine (instruction_inv hs hu hm).withSlot fun n hn => ?_
    cases hn
    exact (instruction_params hu).symm ▸ hk
  · exact hs.endTick
  · exact hs
  · have hticks : ∀ keys, .tick keys ∈ c :: cs → keys.length = s.params.numKeys := hhost ▸ hs.host_ok
    refine (hs.withHost fun keys hmem => hticks keys (.tail c hmem)).command fun keys hc => ?_
    exact hticks keys (hc ▸ .head cs)

/-- Settles O55: the default parameters fit one another. -/
theorem resetMeetsTheInvariant : Obligations.ResetMeetsTheInvariant := State.resetWith_inv valid_defaults

/-! ### Memory in its canonical form (entry 10) -/

/-- A canonical memory whose first cell is `(a, x)` differs at `a` from one with no cell that low. -/
theorem readCell_ne_of_lt {p : Config.Params} {low a : Nat} {x : Byte} {rest m : Memory}
    (h : wfFrom p low ((a, x) :: rest) = true) (hm : wfFrom p (a + 1) m = true) :
    readCell p ((a, x) :: rest) a ≠ readCell p m a := by
  obtain ⟨-, -, hx, -⟩ := (wfFrom_cons ..).1 h
  rw [readCell_below hm (Nat.lt_succ_self a)]
  simpa [readCell] using hx

/-- Canonical memories that read alike list the same cells: the first cells agree in address and byte, and each rest reads
as its reset byte up to there. -/
theorem eq_of_readCell_eq {p : Config.Params} {low low' : Nat} {m m' : Memory} (hm : wfFrom p low m = true)
    (hm' : wfFrom p low' m' = true) (h : ∀ a, readCell p m a = readCell p m' a) : m = m' := by
  induction m generalizing low low' m' with
  | nil =>
    cases m' with
    | nil => rfl
    | cons c' rest' => exact absurd (h c'.1).symm (readCell_ne_of_lt hm' rfl)
  | cons c rest ih =>
    cases m' with
    | nil => exact absurd (h c.1) (readCell_ne_of_lt hm rfl)
    | cons c' rest' =>
      obtain ⟨a, x⟩ := c
      obtain ⟨a', x'⟩ := c'
      obtain ⟨-, hin, hx, hrest⟩ := (wfFrom_cons ..).1 hm
      obtain ⟨-, hin', hx', hrest'⟩ := (wfFrom_cons ..).1 hm'
      obtain hlt | rfl | hgt := lt_trichotomy a a'
      · exact absurd (h a) (readCell_ne_of_lt hm ((wfFrom_cons ..).2 ⟨hlt, hin', hx', hrest'⟩))
      · have hxx : x = x' := by simpa [readCell] using h a
        have hrests : rest = rest' := by
          refine ih hrest hrest' fun b => ?_
          by_cases hb : a = b
          · subst hb
            rw [readCell_below hrest (Nat.lt_succ_self a), readCell_below hrest' (Nat.lt_succ_self a)]
          · simpa [readCell, hb] using h b
        rw [hxx, hrests]
      · exact absurd (h a').symm (readCell_ne_of_lt hm' ((wfFrom_cons ..).2 ⟨hgt, hin, hx, hrest⟩))

/-- Settles O32, by induction along both lists of cells. -/
theorem canonicalMemoriesThatReadAlikeAreEqual : Obligations.CanonicalMemoriesThatReadAlikeAreEqual :=
  fun _ _ _ hm hm' h => eq_of_readCell_eq hm hm' h

/-! ### The frame of each piece of state (R37) -/

section Frames

variable {s t : State} {i : Instr}

/-- Where LOADSTORE_I_MODE is Unchanged, no block moves I (R164, R165). -/
theorem State.stepI_i_unchanged (hI : s.params.loadStoreI = .unchanged) (x : Reg) : (s.stepI x).i = s.i := by
  rw [State.stepI_i, hI]

variable (h : Effect s i t)
include h

/-- Rows V[x] and VF. -/
theorem Effect.reg_eq {r : Nat} (hr : writesReg s.params r i = false) : t.reg r = s.reg r := by
  cases h with
  | regs draws after => exact after.kept r hr
  | draw x y n drawn => exact State.reg_setReg_ne _ _ (by simpa [writesReg] using hr)
  | load x => exact (s.reg_loadedRegs x r).trans (if_neg (by simpa [writesReg] using hr))
  | _ => rfl

/-- Row MEM. -/
theorem Effect.byteAt_eq {a : Nat} (ha : ¬ storesTo s a i) : t.byteAt a = s.byteAt a := by
  cases h with
  | bcd x =>
    obtain ⟨h0, h1, h2⟩ : a ≠ s.reduced 0 ∧ a ≠ s.reduced 1 ∧ a ≠ s.reduced 2 := by simpa [storesTo] using ha
    exact (readCell_writeCell_ne _ _ h2.symm).trans
      ((readCell_writeCell_ne _ _ h1.symm).trans (readCell_writeCell_ne _ _ h0.symm))
  | store x fits =>
    have hout : ¬ (s.i ≤ a ∧ a ≤ s.i + x.val) := ha
    exact readCell_writeBytes_outside _ _ (by simp; omega)
  | _ => rfl

/-- Row FB. -/
theorem Effect.fb_eq (hcls : ∀ x, i ≠ .cls x) (hdrw : ∀ x y n, i ≠ .drw x y n) : t.fb = s.fb := by
  cases h with
  | clear x => exact absurd rfl (hcls x)
  | draw x y n => exact absurd rfl (hdrw x y n)
  | _ => rfl

/-- Row STACK, with SP. -/
theorem Effect.stack_eq (hret : ∀ x, i ≠ .ret x) (hcall : ∀ nnn, i ≠ .call nnn) : t.stack = s.stack ∧ t.sp = s.sp := by
  cases h with
  | pop x => exact absurd rfl (hret x)
  | push nnn => exact absurd rfl (hcall nnn)
  | _ => exact ⟨rfl, rfl⟩

/-- Row DT. -/
theorem Effect.dt_eq (hdt : ∀ x, i ≠ .ldDtVx x) : t.dt = s.dt := by
  cases h with
  | delay x => exact absurd rfl (hdt x)
  | _ => rfl

/-- Row ST. -/
theorem Effect.st_eq (hst : ∀ x, i ≠ .ldStVx x) : t.st = s.st := by
  cases h with
  | sound x => exact absurd rfl (hst x)
  | _ => rfl

/-- Row I. -/
theorem Effect.i_eq (hset : ∀ nnn, i ≠ .ldI nnn) (hadd : ∀ x, i ≠ .addIVx x) (hglyph : ∀ x, i ≠ .ldFVx x)
    (hblock : s.params.loadStoreI = .unchanged ∨ ((∀ x, i ≠ .ldMemVx x) ∧ ∀ x, i ≠ .ldVxMem x)) : t.i = s.i := by
  cases h with
  | setIndex nnn => exact absurd rfl (hset nnn)
  | addIndex x => exact absurd rfl (hadd x)
  | glyph x => exact absurd rfl (hglyph x)
  | store x =>
    obtain hI | ⟨hstore, -⟩ := hblock
    · exact State.stepI_i_unchanged hI x
    · exact absurd rfl (hstore x)
  | load x =>
    obtain hI | ⟨-, hload⟩ := hblock
    · exact State.stepI_i_unchanged hI x
    · exact absurd rfl (hload x)
  | _ => rfl

/-- The wait latch (R33, R208). -/
theorem Effect.wait_eq (hwait : ∀ x, i ≠ .ldVxK x) : t.waitX = s.waitX ∧ t.waitKey = s.waitKey := by
  cases h with
  | wait x => exact absurd rfl (hwait x)
  | _ => exact ⟨rfl, rfl⟩

/-- Row MODE: an instruction keeps it, or is FX0A, or is fatal. -/
theorem Effect.mode_cases :
    t.mode = s.mode ∨ (∃ x, i = .ldVxK x ∧ t.mode = .awaitingKey) ∨
      ((fatalCause s i).isSome = true ∧ t.mode = .halted) := by
  cases h with
  | wait x => exact .inr (.inl ⟨x, rfl, rfl⟩)
  | fatal cause => exact .inr (.inr ⟨by rw [cause]; rfl, rfl⟩)
  | _ => exact .inl rfl

end Frames

/-- No instruction writes KEY, UNREC, LOADED or the model's own parameters, slot, commands and answer. -/
theorem exec_surroundings {s t : State} {i : Instr} (h : exec i s = .next t) : t.surroundings = s.surroundings := by
  obtain ⟨u, hu, hkept⟩ := exec_next s i
  cases hu.symm.trans h
  exact hkept

/-- Settles O49: only register writes and FX65 touch the register file, and each only at the registers it names. -/
theorem onlyNamedRegistersChange : Obligations.OnlyNamedRegistersChange :=
  fun _ _ _ _ h hr => (exec_effect h).reg_eq hr

/-- Settles O50: each store misses the address. -/
theorem onlyStoredBytesChange : Obligations.OnlyStoredBytesChange :=
  fun _ _ _ _ h ha => (exec_effect h).byteAt_eq ha

/-- Settles O51, row by row of the access table. -/
theorem onlyNamedInstructionsWriteDeviceState : Obligations.OnlyNamedInstructionsWriteDeviceState := by
  intro i s t h
  have heff := exec_effect h
  exact ⟨heff.fb_eq, heff.stack_eq, heff.dt_eq, heff.st_eq, heff.i_eq⟩

/-- Settles O52: the surroundings stay, and the latch and MODE are FX0A's but for a fatal error. -/
theorem onlyWaitInstructionWritesControlState : Obligations.OnlyWaitInstructionWritesControlState := by
  intro i s t h
  have heff := exec_effect h
  have hkept := exec_surroundings h
  refine ⟨congrArg (·.keys) hkept, congrArg (·.unrec) hkept, congrArg (·.loaded) hkept, congrArg (·.params) hkept,
    congrArg (·.slot) hkept, congrArg (·.host) hkept, congrArg (·.answer) hkept, fun hwait => ?latch⟩
  case latch =>
    obtain ⟨hX, hKey⟩ := heff.wait_eq hwait
    refine ⟨hX, hKey, ?_⟩
    obtain hsame | ⟨x, hx, -⟩ | ⟨-, hhalt⟩ := heff.mode_cases
    · exact .inl hsame
    · exact absurd hx (hwait x)
    · exact .inr hhalt

/-! ### The changes of MODE (R32) -/

section Modes

variable {s : State}

/-- A fetch raises only where the word is not all inside memory (R54). -/
theorem State.memSize_le_of_fetch_error {a : Nat} (h : s.fetch = .error a) : s.params.memSize ≤ s.pc + 1 := by
  by_contra hin
  obtain ⟨hi, lo, -, -, hok⟩ := State.fetch_of_lt (Nat.not_le.1 hin)
  cases h.symm.trans hok

/-- A fetched word is the two bytes at PC (R53). -/
theorem State.memRead_of_fetch {op : Word} (h : s.fetch = .ok op) :
    ∃ hi lo, s.memRead s.pc = some hi ∧ s.memRead (s.pc + 1) = some lo ∧ joinBytes hi lo = op := by
  obtain ⟨hi, lo, hhi, hlo, hok⟩ := State.fetch_of_lt (State.pc_lt_of_fetch h)
  cases h.symm.trans hok
  exact ⟨hi, lo, hhi, hlo, rfl⟩

/-- A cycle of fetch, decode and execute keeps MODE, or runs FX0A, or is fatal in its fetch or its instruction. -/
theorem instruction_mode_cases {t : State} (h : instruction s = .next t) :
    t.mode = s.mode ∨
    (t.mode = .awaitingKey ∧ ∃ hi lo x, s.memRead s.pc = some hi ∧ s.memRead (s.pc + 1) = some lo ∧
      decode (joinBytes hi lo) = .ok (.ldVxK x)) ∨
    (t.mode = .halted ∧ (s.params.memSize ≤ s.pc + 1 ∨
      ∃ hi lo i, s.memRead s.pc = some hi ∧ s.memRead (s.pc + 1) = some lo ∧
        decode (joinBytes hi lo) = .ok i ∧ (fatalCause s i).isSome = true)) := by
  cases hf : s.fetch with
  | error a =>
    cases (instruction_fetchFault hf).symm.trans h
    exact .inr (.inr ⟨rfl, .inl (State.memSize_le_of_fetch_error hf)⟩)
  | ok op =>
    cases hd : decode op with
    | error r => cases (instruction_unrecognized hf hd).symm.trans h; exact .inl rfl
    | ok i =>
      obtain ⟨hi, lo, hhi, hlo, rfl⟩ := State.memRead_of_fetch hf
      obtain hsame | ⟨x, rfl, hwait⟩ | ⟨hcause, hhalt⟩ :=
        (exec_effect ((instruction_decoded hf hd).symm.trans h)).mode_cases
      · exact .inl hsame
      · exact .inr (.inl ⟨hwait, hi, lo, x, hhi, hlo, hd⟩)
      · exact .inr (.inr ⟨hhalt, .inr ⟨hi, lo, i, hhi, hlo, hd, hcause⟩⟩)

variable (s)

@[simp] theorem State.timerPhase_mode : s.timerPhase.mode = s.mode := by
  unfold State.timerPhase
  split <;> rfl

@[simp] theorem State.endTick_mode : s.endTick.mode = s.mode := State.timerPhase_mode _

@[simp] theorem State.load_mode (bytes : List Byte) : (s.load bytes).mode = s.mode := by
  unfold State.load
  split <;> rfl

/-- A wait-check keeps MODE, or finds the latched key up and goes to Running (R209). -/
theorem State.waitCheck_mode_cases :
    s.waitCheck.mode = s.mode ∨ (s.waitCheck.mode = .running ∧ ∃ k, s.waitKey = some k ∧ s.key k = false) := by
  unfold State.waitCheck
  split
  · split <;> exact .inl rfl
  · next k hk =>
    split
    · exact .inl rfl
    · next hup => exact .inr ⟨rfl, k, hk, Bool.eq_false_iff.2 hup⟩

/-- The first step of a tick keeps MODE, or resolves a wait (R91). -/
theorem State.beginTick_mode_cases (keys : List Bool) :
    (s.beginTick keys).mode = s.mode ∨
    (s.mode = .awaitingKey ∧ (s.beginTick keys).mode = .running ∧
      ∃ k, s.waitKey = some k ∧ keys.getD k false = false) := by
  unfold State.beginTick
  split
  · exact .inl rfl
  · next hm =>
    rw [State.timerPhase_mode]
    exact (s.withKeys keys).waitCheck_mode_cases.imp_right fun ⟨hrun, hup⟩ => ⟨hm, hrun, hup⟩
  · exact .inl rfl

end Modes

/-- Settles O57: an instruction of the batch has the first two causes, a tick the third, the reset command the last; the
end of a tick, an idle step and a load keep MODE. -/
theorem modeChangesOnlyAsStated : Obligations.ModeChangesOnlyAsStated := by
  intro s t h hne
  obtain ⟨k, u, hslot, hk, hm, hu, rfl⟩ | ⟨k, -, -, rfl⟩ | ⟨-, -, rfl⟩ | ⟨c, cs, hslot, hhost, rfl⟩ := step_cases h
  · obtain hsame | ⟨hwait, hword⟩ | ⟨hhalt, hcause⟩ := instruction_mode_cases hu
    · exact absurd hsame hne
    · exact .inl ⟨hm, hwait, ⟨k, hslot, hk⟩, hword⟩
    · exact .inr (.inl ⟨hm, hhalt, ⟨k, hslot, hk⟩, hcause⟩)
  · exact absurd s.endTick_mode hne
  · exact absurd rfl hne
  · cases c with
    | reset => exact .inr (.inr (.inr ⟨rfl, hslot, cs, hhost⟩))
    | load bytes => exact absurd ((s.withHost cs).load_mode bytes) hne
    | tick keys =>
      obtain hsame | ⟨hm, hrun, k, hkey, hup⟩ := (s.withHost cs).beginTick_mode_cases keys
      · exact absurd hsame hne
      · exact .inr (.inr (.inl ⟨hm, hrun, hslot, keys, cs, k, hhost, hkey, hup⟩))

/-! ### The reset table (R38) -/

/-- Settles O44: the tables are filled with zeros, the display is blank, and the font of R6 is the one spelled out. -/
theorem resetHoldsTheStatedValues : Obligations.ResetHoldsTheStatedValues := by
  refine ⟨rfl, State.resetWith_reg _, rfl, rfl, State.resetWith_entry _, rfl, rfl, State.resetWith_key _,
    pixelAt_blankFrame, ?font, ?zeros, rfl, rfl, rfl, rfl, rfl, rfl⟩
  case font => decide
  case zeros => exact fun a ha => (State.resetWith_byteAt _ a).trans (resetByte_outside_font (.inr ha))

end Sys2Proof.Machine

/-! ## Memory and fetch (R53 to R55, R95): what a step inside the batch runs, and where a fetch fails -/

namespace Sys2Proof.Machine

/-- A step inside the batch is one cycle of fetch, decode and execute, and the slot is counted (R93, R95). -/
theorem step_running {s : State} {k : Nat} (hslot : s.slot = some k) (hk : k < s.params.batch)
    (hm : s.mode = .running) : step s = mapNext (fun t => t.withSlot (some (k + 1))) (instruction s) :=
  (step_slot hslot).trans (batchSlot_run hm hk)

/-- Settles O6: the fetch answers the two bytes joined, and the cycle runs what they decode to. -/
theorem stepRunsTheDecodedInstruction : Obligations.StepRunsTheDecodedInstruction := by
  intro s k hi lo i hslot hk hm hhi hlo hd
  rw [step_running hslot hk hm, instruction_decoded (State.fetch_ok hhi hlo) hd]
  rfl

/-- Settles O8: the fetch raises with the lowest address that does not exist, and the cycle takes it as fatal. -/
theorem fetchOutsideMemoryHalts : Obligations.FetchOutsideMemoryHalts := by
  intro s k hslot hk hm hout
  rw [step_running hslot hk hm, instruction_fetchFault (State.fetch_error hout)]
  rfl

/-! ### The host's word (entry 7) -/

section HostWord

/-- What the decoder reads from the bytes of the host's word is what it makes of the word (R53). -/
theorem decode_of_decodeTableWord {nbits w : Nat} {i : Instr} (h : decodeTableWord nbits w = some i) :
    decode (tableWord nbits w) = .ok i := by
  have hbytes := decodeBytes_wordBytes (tableWord nbits w) []
  rw [List.append_nil] at hbytes
  rw [decodeTableWord, hbytes] at h
  cases hd : decode (tableWord nbits w) with
  | ok j => rw [hd] at h; cases h; rfl
  | error r => rw [hd] at h; cases h

variable {s : State} (op : Word)

/-- The word goes where PC stands or to PROG_BASE, and both its bytes fit there. -/
theorem State.placeWord_fits (hp : s.params.valid = true) : (s.placeWord op).pc + 2 ≤ s.params.memSize := by
  obtain ⟨hbase, -⟩ := valid_iff.1 hp
  show (if s.pc + 1 < s.params.memSize then s.pc else s.params.progBase) + 2 ≤ s.params.memSize
  split <;> omega

variable (hp : s.params.valid = true) (hm : s.mem.wf s.params = true)
include hp hm

/-- Each byte of the placed word reads back at PC and up (R60). -/
theorem State.memRead_placeWord {k : Nat} (hk : k < (wordBytes op).length) :
    (s.placeWord op).memRead ((s.placeWord op).pc + k) = some (wordBytes op)[k] := by
  have hfits := s.placeWord_fits op hp
  have hlen : (wordBytes op).length = 2 := rfl
  have hin : inBounds s.params ((s.placeWord op).pc + k) = true := (inBounds_iff _).2 (by omega)
  exact (if_pos hin).trans (congrArg some (readCell_writeBytes_inside _ hm hk hfits))

/-- The next fetch answers the placed word. -/
theorem State.fetch_placeWord : (s.placeWord op).fetch = .ok op := by
  have hhi : (s.placeWord op).memRead (s.placeWord op).pc = some (highByte op) :=
    State.memRead_placeWord op hp hm (k := 0) Nat.zero_lt_two
  have hlo : (s.placeWord op).memRead ((s.placeWord op).pc + 1) = some (lowByte op) :=
    State.memRead_placeWord op hp hm (k := 1) Nat.one_lt_two
  exact (State.fetch_ok hhi hlo).trans (congrArg Except.ok (joinBytes_bytes op))

end HostWord

/-- Settles O60: the placed word is the one fetched, in the first slot of a batch that has one. -/
theorem placedWordRunsNext : Obligations.PlacedWordRunsNext := by
  intro s w i hp hm hw
  obtain ⟨-, -, -, -, -, -, -, -, -, -, -, hbatch⟩ := valid_iff.1 hp
  have hfetch : (s.withFetchWord 16 w).fetch = .ok (tableWord 16 w) := State.fetch_placeWord _ hp hm
  have hstep := step_running (s := s.withFetchWord 16 w) rfl hbatch rfl
  rw [hstep, instruction_decoded hfetch (decode_of_decodeTableWord hw)]
  rfl

end Sys2Proof.Machine

/-! ## Encoding (R70 to R78): the encoder, the decoder and the opcode map agree -/

namespace Sys2Proof

/-! ### From an instruction to its word and back (R73, R74) -/

/-- Settles O1, group by group of R73: the top nibble chooses the group, then the group's own field chooses the row, and
the operands are read back from their fields. -/
theorem decodeOfEncodeIsTheInstruction : Obligations.DecodeOfEncodeIsTheInstruction := by
  intro i hwf
  cases i with
  | jp _ | call _ | ldI _ | jpV0 _ | seImm _ _ | sneImm _ _ | ldImm _ _ | addImm _ _ | rnd _ _ | seReg _ _ _
  | sneReg _ _ _ => simp [encode, decode]
  | drw x y n =>
    have hn : n < 16 := of_decide_eq_true hwf
    simp [encode, decode, Nat.mod_eq_of_lt hn]
  | cls _ | ret _ => simp [encode, decode, decodeGroup0]
  | ldReg _ _ | orReg _ _ | andReg _ _ | xorReg _ _ | addReg _ _ | subReg _ _ | shr _ _ | subnReg _ _ | shl _ _ =>
    simp [encode, decode, decodeGroup8]
  | skp _ | sknp _ => simp [encode, decode, decodeGroupE]
  | ldVxDt _ | ldVxK _ | ldDtVx _ | ldStVx _ | addIVx _ | ldFVx _ | ldBVx _ | ldMemVx _ | ldVxMem _ =>
    simp [encode, decode, decodeGroupF]

/-- Settles O5: each word is run through the decoder. -/
theorem handWrittenWordsDecode : Obligations.HandWrittenWordsDecode := by
  unfold Obligations.HandWrittenWordsDecode
  decide

/-! ### From a word to its instruction and back (R71, R73)

The decoder dispatches on fields as numbers; a word with the dispatched fields is the one the encoder writes. -/

section WordOfFields

variable {w : Word} {c : Nibble} (hc : (fieldTop w).toNat = c.toNat)
include hc

theorem wordNNN_of_top : wordNNN c (fieldNNN w) = w := by
  rw [← BitVec.eq_of_toNat_eq hc, wordNNN_fields]

theorem wordXNN_of_top : wordXNN c (fieldX w) (fieldNN w) = w := by
  rw [← BitVec.eq_of_toNat_eq hc, wordXNN_fields]

theorem wordXYN_of_top : wordXYN c (fieldX w) (fieldY w) (fieldN w) = w := by
  rw [← BitVec.eq_of_toNat_eq hc, wordXYN_fields]

theorem wordXNN_of_top_byte {nn : Byte} (hnn : (fieldNN w).toNat = nn.toNat) : wordXNN c (fieldX w) nn = w := by
  rw [← BitVec.eq_of_toNat_eq hnn, wordXNN_of_top hc]

theorem wordXYN_of_top_nibble {n : Nibble} (hn : (fieldN w).toNat = n.toNat) :
    wordXYN c (fieldX w) (fieldY w) n = w := by
  rw [← BitVec.eq_of_toNat_eq hn, wordXYN_of_top hc]

end WordOfFields

/-! ### What the decoder answers (R73, R76) -/

/-- What the dispatch of R73 answers for the word `w`: an instruction whose word is `w` when the word is listed, and the
rejection of `w` by name when it is not. -/
inductive Answers (w : Word) (listed : Prop) : Except Reject Instr → Prop where
  | ok {i : Instr} (hlisted : listed) (hwf : i.wellFormed = true) (hencode : encode i = w) : Answers w listed (.ok i)
  | error (hlisted : ¬ listed) : Answers w listed (.error (.unrecognized w))

/-- The rejection says that the word is not listed. -/
theorem Answers.eq_error_iff {w : Word} {listed : Prop} {r : Except Reject Instr} (h : Answers w listed r) :
    r = .error (.unrecognized w) ↔ ¬ listed := by
  cases h with
  | ok hlisted => exact iff_of_false nofun (not_not_intro hlisted)
  | error hlisted => exact iff_of_true rfl hlisted

/-- The four groups with a second dispatch list the word's field; every other group takes all its words (R73). -/
def Listed (w : Word) : Prop :=
  ((fieldTop w).toNat = 0x0 → (fieldNN w).toNat ∈ [0xE0, 0xEE]) ∧
  ((fieldTop w).toNat = 0x8 → (fieldN w).toNat ∈ [0, 1, 2, 3, 4, 5, 6, 7, 0xE]) ∧
  ((fieldTop w).toNat = 0xE → (fieldNN w).toNat ∈ [0x9E, 0xA1]) ∧
  ((fieldTop w).toNat = 0xF → (fieldNN w).toNat ∈ [0x07, 0x0A, 0x15, 0x18, 0x1E, 0x29, 0x33, 0x55, 0x65])

section DecoderAnswers

variable {w : Word}

theorem decodeGroup0_answers (htop : (fieldTop w).toNat = 0x0) :
    Answers w ((fieldNN w).toNat ∈ [0xE0, 0xEE]) (decodeGroup0 w) := by
  unfold decodeGroup0
  split
  case h_3 => exact .error (by simp_all)
  all_goals next hnn => exact .ok (by simp [hnn]) rfl (wordXNN_of_top_byte htop hnn)

theorem decodeGroup8_answers (htop : (fieldTop w).toNat = 0x8) :
    Answers w ((fieldN w).toNat ∈ [0, 1, 2, 3, 4, 5, 6, 7, 0xE]) (decodeGroup8 w) := by
  unfold decodeGroup8
  split
  case h_10 => exact .error (by simp_all)
  all_goals next hn => exact .ok (by simp [hn]) rfl (wordXYN_of_top_nibble htop hn)

theorem decodeGroupE_answers (htop : (fieldTop w).toNat = 0xE) :
    Answers w ((fieldNN w).toNat ∈ [0x9E, 0xA1]) (decodeGroupE w) := by
  unfold decodeGroupE
  split
  case h_3 => exact .error (by simp_all)
  all_goals next hnn => exact .ok (by simp [hnn]) rfl (wordXNN_of_top_byte htop hnn)

theorem decodeGroupF_answers (htop : (fieldTop w).toNat = 0xF) :
    Answers w ((fieldNN w).toNat ∈ [0x07, 0x0A, 0x15, 0x18, 0x1E, 0x29, 0x33, 0x55, 0x65]) (decodeGroupF w) := by
  unfold decodeGroupF
  split
  case h_10 => exact .error (by simp_all)
  all_goals next hnn => exact .ok (by simp [hnn]) rfl (wordXNN_of_top_byte htop hnn)

/-- The decoder as a whole: a group with a second dispatch answers as that dispatch does; any other group takes the
word as one of the three layouts of R71. -/
theorem decode_answers (w : Word) : Answers w (Listed w) (decode w) := by
  unfold decode
  split
  case h_1 htop => simpa [Listed, htop] using decodeGroup0_answers htop
  case h_9 htop => simpa [Listed, htop] using decodeGroup8_answers htop
  case h_15 htop => simpa [Listed, htop] using decodeGroupE_answers htop
  case h_16 htop => simpa [Listed, htop] using decodeGroupF_answers htop
  -- 1NNN, 2NNN, ANNN, BNNN
  case h_2 htop | h_3 htop | h_11 htop | h_12 htop => exact .ok (by simp [Listed, htop]) rfl (wordNNN_of_top htop)
  -- 3XNN, 4XNN, 6XNN, 7XNN, CXNN
  case h_4 htop | h_5 htop | h_7 htop | h_8 htop | h_13 htop =>
    exact .ok (by simp [Listed, htop]) rfl (wordXNN_of_top htop)
  -- 5XYN, 9XYN
  case h_6 htop | h_10 htop => exact .ok (by simp [Listed, htop]) rfl (wordXYN_of_top htop)
  -- DXYN: the row count is kept as a number
  case h_14 htop =>
    have hrows : BitVec.ofNat 4 (fieldN w).toNat = fieldN w := by simp
    refine .ok (by simp [Listed, htop]) (decide_eq_true (fieldN w).isLt) ?_
    rw [encode, hrows, wordXYN_of_top htop]
  -- the top nibble has no value above 0xF
  case h_17 =>
    have := (fieldTop w).isLt
    simp only [imp_false] at *
    omega

end DecoderAnswers

/-- Settles O2: the decoder answers an instruction only with its word. -/
theorem encodeOfDecodeIsTheWord : Obligations.EncodeOfDecodeIsTheWord := by
  intro w i hd
  have h := decode_answers w
  rw [hd] at h
  cases h with
  | ok _ hwf hencode => exact ⟨hwf, hencode⟩

/-! ### The rejected words as numbers (R76) -/

section FieldsAsNumbers

variable (w : Word)

theorem fieldTop_toNat : (fieldTop w).toNat = w.toNat / 4096 := by
  have := w.isLt
  simp only [fieldTop, BitVec.extractLsb'_toNat, Nat.shiftRight_eq_div_pow]
  omega

theorem fieldNN_toNat : (fieldNN w).toNat = w.toNat % 256 := by
  simp [fieldNN]

theorem fieldN_toNat : (fieldN w).toNat = w.toNat % 16 := by
  simp [fieldN]

end FieldsAsNumbers

/-- The low nibbles that group 8 does not list (R76). -/
theorem not_mem_group8_iff {n : Nat} (hn : n < 16) :
    n ∉ [0, 1, 2, 3, 4, 5, 6, 7, 0xE] ↔ n ∈ [8, 9, 0xA, 0xB, 0xC, 0xD, 0xF] := by
  simp only [List.mem_cons, List.not_mem_nil, or_false]
  omega

/-- Settles O4: the unlisted words, their fields read as numbers. -/
theorem unrecognizedWordsAreTheSpelledSet : Obligations.UnrecognizedWordsAreTheSpelledSet := by
  intro w
  rw [(decode_answers w).eq_error_iff]
  simp only [Listed, not_and_or, Classical.not_imp, fieldTop_toNat, fieldNN_toNat, fieldN_toNat,
    not_mem_group8_iff (Nat.mod_lt w.toNat (by decide : 16 > 0))]

/-! ### The opcode map (R74) -/

open Laws in
/-- The word of an instruction lies in the instruction's own row. -/
theorem encode_and_rowMask : ∀ i : Instr, encode i &&& i.rowMask = i.rowMatch
  | .cls x => EncodesInItsRow.cls x
  | .ret x => EncodesInItsRow.ret x
  | .jp nnn => EncodesInItsRow.jp nnn
  | .call nnn => EncodesInItsRow.call nnn
  | .seImm x nn => EncodesInItsRow.seImm x nn
  | .sneImm x nn => EncodesInItsRow.sneImm x nn
  | .seReg x y n => EncodesInItsRow.seReg x y n
  | .ldImm x nn => EncodesInItsRow.ldImm x nn
  | .addImm x nn => EncodesInItsRow.addImm x nn
  | .ldReg x y => EncodesInItsRow.ldReg x y
  | .orReg x y => EncodesInItsRow.orReg x y
  | .andReg x y => EncodesInItsRow.andReg x y
  | .xorReg x y => EncodesInItsRow.xorReg x y
  | .addReg x y => EncodesInItsRow.addReg x y
  | .subReg x y => EncodesInItsRow.subReg x y
  | .shr x y => EncodesInItsRow.shr x y
  | .subnReg x y => EncodesInItsRow.subnReg x y
  | .shl x y => EncodesInItsRow.shl x y
  | .sneReg x y n => EncodesInItsRow.sneReg x y n
  | .ldI nnn => EncodesInItsRow.ldI nnn
  | .jpV0 nnn => EncodesInItsRow.jpV0 nnn
  | .rnd x nn => EncodesInItsRow.rnd x nn
  | .drw x y n => EncodesInItsRow.drw x y n
  | .skp x => EncodesInItsRow.skp x
  | .sknp x => EncodesInItsRow.sknp x
  | .ldVxDt x => EncodesInItsRow.ldVxDt x
  | .ldVxK x => EncodesInItsRow.ldVxK x
  | .ldDtVx x => EncodesInItsRow.ldDtVx x
  | .ldStVx x => EncodesInItsRow.ldStVx x
  | .addIVx x => EncodesInItsRow.addIVx x
  | .ldFVx x => EncodesInItsRow.ldFVx x
  | .ldBVx x => EncodesInItsRow.ldBVx x
  | .ldMemVx x => EncodesInItsRow.ldMemVx x
  | .ldVxMem x => EncodesInItsRow.ldVxMem x

/-- The row of an instruction is a row of the map. -/
theorem row_mem_opcodeRows (i : Instr) : (i.rowMask, i.rowMatch) ∈ opcodeRows := by
  cases i <;> exact List.mem_of_elem_eq_true rfl

/-- The bits that the dispatch of R73 looks at in the words of a group: the top nibble, and the group's own field. -/
def dispatchMask (top : Nat) : Word :=
  match top with
  | 0x0 | 0xE | 0xF => 0xF0FF
  | 0x8 => 0xF00F
  | _ => 0xF000

theorem fieldTop_dispatchMask (top : Nat) : fieldTop (dispatchMask top) = BitVec.allOnes 4 := by
  unfold dispatchMask
  split <;> rfl

/-- Each row fixes exactly the bits that its group is dispatched on, to values that the dispatch lists. -/
theorem opcodeRows_dispatch {r : Word × Word} (hr : r ∈ opcodeRows) :
    r.1 = dispatchMask (fieldTop r.2).toNat ∧ Listed r.2 := by
  unfold Listed
  fin_cases hr <;> decide

section Match

variable {w : Word} {r : Word × Word}

/-- A matching row agrees with the word on every field that its mask covers. -/
theorem extractLsb'_of_match (hw : w &&& r.1 = r.2) {start len : Nat}
    (hmask : r.1.extractLsb' start len = BitVec.allOnes len) : r.2.extractLsb' start len = w.extractLsb' start len := by
  rw [← hw, BitVec.extractLsb'_and, hmask, BitVec.and_allOnes]

variable (hr : r ∈ opcodeRows) (hw : w &&& r.1 = r.2)
include hr hw

/-- A row of the map matches the words of its own group only. -/
theorem fieldTop_of_match : fieldTop r.2 = fieldTop w := by
  obtain ⟨hmask, -⟩ := opcodeRows_dispatch hr
  exact extractLsb'_of_match hw (hmask ▸ fieldTop_dispatchMask _)

theorem mask_of_match : r.1 = dispatchMask (fieldTop w).toNat := by
  obtain ⟨hmask, -⟩ := opcodeRows_dispatch hr
  rwa [fieldTop_of_match hr hw] at hmask

/-- The word alone determines the row that matches it. -/
theorem row_of_match : r = (dispatchMask (fieldTop w).toNat, w &&& dispatchMask (fieldTop w).toNat) := by
  have hmask := mask_of_match hr hw
  exact Prod.ext hmask (hmask ▸ hw.symm)

theorem listed_of_match : Listed w := by
  have hmask := mask_of_match hr hw
  have hn (h : dispatchMask (fieldTop w).toNat = 0xF00F) : fieldN r.2 = fieldN w :=
    extractLsb'_of_match hw (hmask ▸ h ▸ rfl)
  have hnn (h : dispatchMask (fieldTop w).toNat = 0xF0FF) : fieldNN r.2 = fieldNN w :=
    extractLsb'_of_match hw (hmask ▸ h ▸ rfl)
  obtain ⟨-, h0, h8, hE, hF⟩ := opcodeRows_dispatch hr
  rw [fieldTop_of_match hr hw] at h0 h8 hE hF
  exact ⟨fun h => hnn (h ▸ rfl) ▸ h0 h, fun h => hn (h ▸ rfl) ▸ h8 h, fun h => hnn (h ▸ rfl) ▸ hE h,
    fun h => hnn (h ▸ rfl) ▸ hF h⟩

end Match

/-- Settles O3: a listed word lies in the row of its instruction, which the word determines; no row matches an unlisted
word. -/
theorem decodeFollowsTheOpcodeMap : Obligations.DecodeFollowsTheOpcodeMap := by
  intro w
  have h := decode_answers w
  generalize decode w = answer at h
  cases h with
  | @ok i _ _ hencode =>
    have hmatch : w &&& i.rowMask = i.rowMatch := hencode ▸ encode_and_rowMask i
    have hrow := row_mem_opcodeRows i
    exact .inl ⟨i, rfl, hrow, hmatch, fun r hr hw => (row_of_match hr hw).trans (row_of_match hrow hmatch).symm⟩
  | error hlisted => exact .inr ⟨rfl, fun r hr hw => hlisted (listed_of_match hr hw)⟩

end Sys2Proof

/-! ## The CPU cycle (R90 to R98): the tick and its steps, the batch, the halt, and the advance of PC -/

namespace Sys2Proof.Machine

/-! ### The fatal error of a step (R97, R233) -/

/-- An instruction that leaves the block Halted took a fatal error, and its report names its own word (entry 12). -/
theorem Effect.eq_fatal_of_halted {s t : State} {i : Instr} (h : Effect s i t) (hm : s.mode ≠ .halted)
    (ht : t.mode = .halted) : ∃ kind info, t = s.fatal kind (some (encode i)) info := by
  cases h with
  | fatal => exact ⟨_, _, rfl⟩
  | wait => cases ht
  | _ => exact absurd ht hm

/-- Settles O9: the only effect that halts is the fatal one, and the word it reports is the one decoded. -/
theorem haltedStepReportsTheFetchedWord : Obligations.HaltedStepReportsTheFetchedWord := by
  intro s t k hi lo i hslot hk hm hhi hlo hd hstep hhalt
  obtain ⟨u, hu, -⟩ := exec_next s i
  rw [step_running hslot hk hm, instruction_decoded (State.fetch_ok hhi hlo) hd, hu] at hstep
  cases hstep
  obtain ⟨kind, info, rfl⟩ := (exec_effect hu).eq_fatal_of_halted (by simp [hm]) hhalt
  obtain ⟨-, hword⟩ := encodeOfDecodeIsTheWord _ i hd
  exact ⟨kind, info, by rw [hword]; rfl⟩

/-! ### The word that no row matches (R98) -/

/-- Settles O7: the cycle counts the word and advances, and the step counts the slot. -/
theorem unrecognizedWordOnlyCounts : Obligations.UnrecognizedWordOnlyCounts := by
  intro s k hi lo w hslot hk hm hhi hlo hd
  rw [step_running hslot hk hm, instruction_unrecognized (State.fetch_ok hhi hlo) hd]
  rfl

/-! ### The advance of PC (R96) -/

section Advance

variable (s : State)

@[simp] theorem State.arith_pc (f g : Byte → Byte → Byte) (x y : Nat) : (s.arith f g x y).pc = s.pc := by
  rw [State.arith_eq]
  rfl

@[simp] theorem State.logic_pc (f : Byte → Byte → Byte) (x y : Nat) : (s.logic f x y).pc = s.pc := by
  obtain ⟨-, -, -, onlyRegs⟩ := s.logic_spec f x y
  rw [onlyRegs]
  rfl

@[simp] theorem State.stepI_pc (x : Reg) : (s.stepI x).pc = s.pc := by
  rw [State.stepI_eq]
  rfl

end Advance

/-- The block of FX55 lies inside memory where the cause table's condition does not hold; FX65 has the same condition
(R231). -/
theorem block_fits_of_no_cause {s : State} {x : Reg} (h : fatalCause s (.ldMemVx x) = none) :
    s.i + x.val < s.params.memSize := by
  simpa [fatalCause] using h

/-- Settles O53: each instruction that is left writes other pieces of the advanced state, and none of them is PC. -/
theorem otherInstructionsAdvanceThePc : Obligations.OtherInstructionsAdvanceThePc := by
  intro i s t h hcause hjump hkey himm hreg
  cases i
  case jp nnn | call nnn | jpV0 nnn => simpa using hjump nnn
  case ret x | skp x | sknp x => simpa using hkey x
  case seImm x nn | sneImm x nn => simpa using himm x nn
  case seReg x y n | sneReg x y n => simpa using hreg x y n
  case ldMemVx x =>
    cases (execLdMemVx_fits s x (block_fits_of_no_cause hcause)).symm.trans h
    exact State.stepI_pc _ x
  case ldVxMem x =>
    cases (execLdVxMem_fits s x (block_fits_of_no_cause hcause)).symm.trans h
    exact State.stepI_pc _ x
  all_goals cases h
  case orReg x y | andReg x y | xorReg x y => exact s.advance.logic_pc _ x y
  case addReg x y | subReg x y | subnReg x y => exact s.advance.arith_pc _ _ x y
  all_goals rfl

/-! ### Every step goes on (R97, R232; entries 2, 9) -/

/-- Settles O56: an instruction answers a next state, a fatal one too, and every other phase of a step is a plain next
state. -/
theorem everyStepAnswersANextState : Obligations.EveryStepAnswersANextState := by
  intro s
  cases hslot : s.slot with
  | some k =>
    by_cases hrun : s.mode = .running ∧ k < s.params.batch
    · obtain ⟨t, ht, -⟩ := instruction_next s
      exact ⟨t.withSlot (some (k + 1)), by rw [step_running hslot hrun.2 hrun.1, ht]; rfl⟩
    · exact ⟨_, (step_slot hslot).trans (batchSlot_end fun hm => Nat.not_lt.1 fun hk => hrun ⟨hm, hk⟩)⟩
  | none =>
    cases hhost : s.host with
    | nil => exact ⟨s, step_idle hslot hhost⟩
    | cons c cs => exact ⟨_, step_command hslot hhost⟩

/-! ### The phases of a tick, mode by mode (R91, R94) -/

section Phases

variable (s : State) (keys : List Bool)

theorem State.beginTick_running (hm : s.mode = .running) :
    s.beginTick keys = (s.withKeys keys).withSlot (some 0) := by
  simp only [State.beginTick, hm]

theorem State.beginTick_awaitingKey (hm : s.mode = .awaitingKey) :
    s.beginTick keys = (s.withKeys keys).waitCheck.timerPhase := by
  simp only [State.beginTick, hm]

theorem State.beginTick_halted (hm : s.mode = .halted) : s.beginTick keys = s := by
  simp only [State.beginTick, hm]

theorem tick_running (hm : s.mode = .running) :
    tick keys s = mapNext State.timerPhase (runBatch s.params.batch (s.withKeys keys)) := by
  simp only [tick, hm]

/-- The tick of a block that does not run is its first phase. -/
theorem tick_not_running (hm : s.mode ≠ .running) : tick keys s = .next (s.beginTick keys) := by
  cases h : s.mode with
  | running => exact absurd h hm
  | awaitingKey => simp only [tick, State.beginTick, h]
  | halted => simp only [tick, State.beginTick, h]

/-- A load of a Halted block is refused (R252). -/
theorem State.load_halted (hm : s.mode = .halted) (bytes : List Byte) :
    s.load bytes = s.withAnswer (some .refused) := by
  have hanswer : s.loadAnswer bytes = .refused := if_pos (.inl hm)
  simp only [State.load, hanswer]

end Phases

/-- The step that takes a tick command is the tick's first phase (entries 1, 2). -/
theorem step_tick {s : State} {keys : List Bool} {rest : List HostCommand} (hslot : s.slot = none)
    (hhost : s.host = .tick keys :: rest) : step s = .next ((s.withHost rest).beginTick keys) :=
  step_command hslot hhost

/-- Settles O40: the tick command's first phase, on a Running block. -/
theorem runningTickRefreshesKeysFirst : Obligations.RunningTickRefreshesKeysFirst := by
  intro s keys rest hslot hhost hm
  rw [step_tick hslot hhost, (s.withHost rest).beginTick_running keys hm]
  rfl

/-- Settles O41: the step is the end of the tick, whose timer phase passes a Halted block by. -/
theorem batchEndCountsTheTimersDown : Obligations.BatchEndCountsTheTimersDown := by
  intro s k hslot hend
  have hstep : step s = .next (s.withSlot none).timerPhase := (step_slot hslot).trans (batchSlot_end hend)
  by_cases hm : s.mode = .halted
  · rw [State.timerPhase_halted (s := s.withSlot none) hm] at hstep
    exact ⟨_, hstep, fun hlive => absurd hm hlive, fun _ => ⟨rfl, rfl⟩, rfl⟩
  · rw [State.timerPhase_live (s := s.withSlot none) hm] at hstep
    exact ⟨_, hstep, fun _ => ⟨countDown_toNat s.dt, countDown_toNat s.st⟩, fun hhalt => absurd hhalt hm, rfl⟩

/-- Settles O42: a Halted block passes the tick by and refuses the load. -/
theorem haltedBlockIgnoresTicksAndLoads : Obligations.HaltedBlockIgnoresTicksAndLoads := by
  intro s rest hslot hm
  refine ⟨fun keys hhost => ?tick, fun bytes hhost => ?load⟩
  case tick =>
    rw [step_tick hslot hhost, (s.withHost rest).beginTick_halted keys hm]
    rfl
  case load =>
    rw [step_command hslot hhost, State.command, (s.withHost rest).load_halted hm]
    rfl

/-! ### The wait-check (R209) -/

section WaitCheck

variable (s : State)

theorem State.waitCheck_noKeyDown (hdown : s.leastKeyDown = none) (hkey : s.waitKey = none) : s.waitCheck = s := by
  simp only [State.waitCheck, hkey, hdown]

theorem State.waitCheck_latch {k : Nat} (hdown : s.leastKeyDown = some k) (hkey : s.waitKey = none) :
    s.waitCheck = s.withWait s.waitX (some k) := by
  simp only [State.waitCheck, hkey, hdown]

theorem State.waitCheck_held {k : Nat} (hdown : s.key k = true) (hkey : s.waitKey = some k) : s.waitCheck = s := by
  simp only [State.waitCheck, hkey, if_pos hdown]

theorem State.waitCheck_released {k : Nat} (hup : s.key k = false) (hkey : s.waitKey = some k) :
    s.waitCheck = ((s.setReg s.waitX (BitVec.ofNat 8 k)).withWait s.waitX none).withMode .running := by
  simp [State.waitCheck, hkey, hup]

end WaitCheck

/-- No wait-check halts the block, so the tick of an AwaitingKey block always counts the timers down (R91, R94). -/
theorem step_waitingTick {s : State} {keys : List Bool} {rest : List HostCommand} (hslot : s.slot = none)
    (hhost : s.host = .tick keys :: rest) (hm : s.mode = .awaitingKey) :
    step s = .next ((s.withHost rest).withKeys keys).waitCheck.timerTick := by
  have hlive : ((s.withHost rest).withKeys keys).waitCheck.mode ≠ .halted := by
    obtain hsame | ⟨hrun, -⟩ := ((s.withHost rest).withKeys keys).waitCheck_mode_cases
    · simp [hsame, hm]
    · simp [hrun]
  rw [step_tick hslot hhost, (s.withHost rest).beginTick_awaitingKey keys hm, State.timerPhase_live hlive]

/-- Settles O39, by what the wait-check finds: nothing latched and no key down or a least one; a latched key that is down
or up. -/
theorem waitingTickMakesOneCheck : Obligations.WaitingTickMakesOneCheck := by
  intro s keys rest hslot hhost hm
  have hstep := step_waitingTick hslot hhost hm
  have hdt := countDown_toNat s.dt
  have hst := countDown_toNat s.st
  cases hkey : s.waitKey with
  | none =>
    cases hdown : ((s.withHost rest).withKeys keys).leastKeyDown with
    | none =>
      rw [State.waitCheck_noKeyDown _ hdown hkey] at hstep
      have hup := (State.leastKeyDown_eq_none _).1 hdown
      exact ⟨_, hstep, rfl, rfl, hslot, hdt, hst, ⟨rfl, hm, .inr ⟨hkey, hup⟩⟩, rfl⟩
    | some k =>
      rw [State.waitCheck_latch _ hdown hkey] at hstep
      have hleast := State.leastKeyDown_eq_some _ hdown
      exact ⟨_, hstep, rfl, rfl, hslot, hdt, hst, ⟨rfl, hm, .inl ⟨k, rfl, hleast⟩⟩, rfl⟩
  | some k =>
    cases hk : ((s.withHost rest).withKeys keys).key k with
    | true =>
      rw [State.waitCheck_held _ hk hkey] at hstep
      exact ⟨_, hstep, rfl, rfl, hslot, hdt, hst,
        ⟨fun _ => ⟨rfl, hm, hkey⟩, fun hup => absurd (hk.symm.trans hup) nofun⟩, rfl⟩
    | false =>
      rw [State.waitCheck_released _ hk hkey] at hstep
      have hreg := s.reg_setReg_same s.waitX (BitVec.ofNat 8 k)
      exact ⟨_, hstep, rfl, rfl, hslot, hdt, hst,
        ⟨fun hheld => absurd (hk.symm.trans hheld) nofun,
          fun _ => ⟨rfl, rfl, (congrArg BitVec.toNat hreg).trans (BitVec.toNat_ofNat k 8),
            fun r hr => s.reg_setReg_ne _ hr⟩⟩, rfl⟩

/-! ### A tick is what its steps do (R91, R93) -/

/-- A cycle of fetch, decode and execute leaves the position in the tick and the host's commands to the sequencer. -/
theorem instruction_slot_host {s t : State} (h : instruction s = .next t) : t.slot = s.slot ∧ t.host = s.host := by
  cases hf : s.fetch with
  | error a => cases (instruction_fetchFault hf).symm.trans h; exact ⟨rfl, rfl⟩
  | ok op =>
    cases hd : decode op with
    | error r => cases (instruction_unrecognized hf hd).symm.trans h; exact ⟨rfl, rfl⟩
    | ok i =>
      have hkept := exec_surroundings ((instruction_decoded hf hd).symm.trans h)
      exact ⟨congrArg (·.slot) hkept, congrArg (·.host) hkept⟩

theorem runBatch_running {s : State} (n : Nat) (hm : s.mode = .running) :
    runBatch (n + 1) s = andThen (instruction s) (runBatch n) := by
  simp only [runBatch, hm]

/-- The batch of a block that does not run does nothing. -/
theorem runBatch_not_running {s : State} (n : Nat) (hm : s.mode ≠ .running) : runBatch n s = .next s := by
  cases n with
  | zero => rfl
  | succ n =>
    cases h : s.mode with
    | running => exact absurd h hm
    | awaitingKey => simp only [runBatch, h]
    | halted => simp only [runBatch, h]

/-- The last step of a tick: the batch has run all its words, or the block no longer runs. -/
theorem run_endTick {s : State} {k : Nat} (hend : s.mode = .running → s.params.batch ≤ k) :
    core.run 1 (s.withSlot (some k)) = .next s.endTick :=
  core_run_succ ((step_slot rfl).trans (batchSlot_end hend))

/-- Between ticks, ending a tick is the timer phase alone. -/
theorem State.endTick_of_slot_none {s : State} (hslot : s.slot = none) : s.endTick = s.timerPhase := by
  have hsame : s.withSlot none = s := by
    rw [← hslot]
    rfl
  rw [State.endTick, hsame]

/-- From slot `k`, with `n` more words in the batch, at most `n` steps run what `runBatch n` runs, and one more ends the
tick. Between its steps a batch only differs from `runBatch` by the slot, which no instruction reads. -/
theorem run_batch (n : Nat) {s : State} {k : Nat} (hcount : k + n = s.params.batch) :
    ∃ m u, m ≤ n ∧ runBatch n s = .next u ∧ u.slot = s.slot ∧ u.host = s.host ∧
      core.run (m + 1) (s.withSlot (some k)) = .next u.endTick := by
  induction n generalizing s k with
  | zero => exact ⟨0, s, le_rfl, rfl, rfl, rfl, run_endTick fun _ => hcount.ge⟩
  | succ n ih =>
    by_cases hm : s.mode = .running
    · obtain ⟨v, hv, hparams⟩ := instruction_next s
      obtain ⟨hvslot, hvhost⟩ := instruction_slot_host hv
      obtain ⟨m, u, hmn, hbatch, huslot, huhost, hrun⟩ := ih (s := v) (k := k + 1) (by rw [hparams]; omega)
      have hfirst : step (s.withSlot (some k)) = .next (v.withSlot (some (k + 1))) := by
        rw [step_running (s := s.withSlot (some k)) rfl (by rw [State.withSlot_params]; omega) hm,
          instruction_withSlot, hv]
        rfl
      refine ⟨m + 1, u, by omega, ?batch, huslot.trans hvslot, huhost.trans hvhost, (core_run_succ hfirst).trans hrun⟩
      case batch =>
        rw [runBatch_running n hm, hv]
        exact hbatch
    · exact ⟨0, s, Nat.zero_le _, runBatch_not_running _ hm, rfl, rfl, run_endTick fun hrun => absurd hrun hm⟩

@[simp] theorem State.timerPhase_host (s : State) : s.timerPhase.host = s.host := by
  unfold State.timerPhase
  split <;> rfl

@[simp] theorem State.timerPhase_slot (s : State) : s.timerPhase.slot = s.slot := by
  unfold State.timerPhase
  split <;> rfl

@[simp] theorem State.waitCheck_host (s : State) : s.waitCheck.host = s.host := by
  unfold State.waitCheck
  split <;> split <;> rfl

@[simp] theorem State.waitCheck_slot (s : State) : s.waitCheck.slot = s.slot := by
  unfold State.waitCheck
  split <;> split <;> rfl

/-- The first phase of a tick leaves the host's commands to the sequencer, and opens a batch only while Running. -/
theorem State.beginTick_host_slot (s : State) (keys : List Bool) (hm : s.mode ≠ .running) :
    (s.beginTick keys).host = s.host ∧ (s.beginTick keys).slot = s.slot := by
  cases h : s.mode with
  | running => exact absurd h hm
  | awaitingKey => simp [s.beginTick_awaitingKey keys h]
  | halted => simp [s.beginTick_halted keys h]

/-- Settles O43: a Running block opens its batch, runs it and ends it; in the other modes one step is the tick. -/
theorem tickIsWhatItsStepsDo : Obligations.TickIsWhatItsStepsDo := by
  intro s keys rest hslot hhost
  have hfirst := step_tick hslot hhost
  by_cases hm : s.mode = .running
  · rw [(s.withHost rest).beginTick_running keys hm] at hfirst
    obtain ⟨m, u, hmn, hbatch, huslot, huhost, hrun⟩ :=
      run_batch s.params.batch (s := (s.withHost rest).withKeys keys) (Nat.zero_add _)
    have hunone : u.slot = none := huslot.trans hslot
    rw [State.endTick_of_slot_none hunone] at hrun
    refine ⟨m + 2, u.timerPhase, by omega, by omega, u.timerPhase_host.trans huhost,
      u.timerPhase_slot.trans hunone, ?whole, (core_run_succ hfirst).trans hrun⟩
    case whole => exact (tick_running (s.withHost rest) keys hm).trans (congrArg (mapNext State.timerPhase) hbatch)
  · obtain ⟨hkeptHost, hkeptSlot⟩ := (s.withHost rest).beginTick_host_slot keys hm
    exact ⟨1, _, by omega, le_rfl, hkeptHost, hkeptSlot.trans hslot,
      tick_not_running (s.withHost rest) keys hm, core_run_succ hfirst⟩

end Sys2Proof.Machine

/-! ## Control flow (R110 to R118): the stack, the jumps and the compares -/

namespace Sys2Proof.Machine

/-! ### CALL and RET (R110, R112) -/

/-- Settles O11: the pop takes the top entry, and no entry is written. -/
theorem retPopsThePc : Obligations.RetPopsThePc :=
  fun x s _ hsp => execRet_pop s x hsp

/-- Settles O12: the push stores the advanced PC at SP and writes no other entry. -/
theorem callPushesTheReturnAddress : Obligations.CallPushesTheReturnAddress :=
  fun nnn s hroom => ⟨_, execCall_room s nnn hroom, rfl, rfl, s.advance.entry_push _, rfl⟩

/-- Settles O13: RET pops the entry at the SP that CALL started from, which is the one CALL pushed. -/
theorem retAfterCallReturns : Obligations.RetAfterCallReturns := by
  intro nnn x s t hroom hcall
  obtain ⟨u, hu, -, hsp, hentry, -⟩ := callPushesTheReturnAddress nnn s hroom
  cases hu.symm.trans hcall
  have hpushed : t.entry s.sp = (s.pc + 2) % 2 ^ s.params.pcWidth := (hentry s.sp).trans (if_pos rfl)
  exact ⟨_, retPopsThePc x t s.sp hsp, hpushed, rfl⟩

/-! ### The jumps (R111, R113) -/

/-- Settles O14: each jump replaces the advanced PC by its target, so the advance is lost. -/
theorem jumpsSetThePc : Obligations.JumpsSetThePc :=
  fun nnn _ => ⟨encode_and_rowMask (.jp nnn), encode_and_rowMask (.jpV0 nnn), ⟨_, rfl, rfl, rfl⟩, ⟨_, rfl, rfl, rfl⟩⟩

/-! ### The compares (R114 to R118) -/

/-- A skip whose test decides `c` moves PC by two words when `c` holds, by one when not, and changes nothing else. -/
theorem State.skipWhen_advance_iff (s : State) {b : Bool} {c : Prop} [Decidable c] (hbc : b = true ↔ c) :
    s.advance.skipWhen b = { s with pc := (if c then s.pc + 4 else s.pc + 2) % 2 ^ s.params.pcWidth } := by
  rw [State.skipWhen_advance, if_congr hbc rfl rfl]
  rfl

/-- Settles O15: each compare is a skip after the advance, and its test decides its condition. -/
theorem comparesSkipOneWord : Obligations.ComparesSkipOneWord := by
  intro x y nn n s
  refine ⟨encode_and_rowMask (.seImm x nn), encode_and_rowMask (.sneImm x nn), encode_and_rowMask (.seReg x y n),
    encode_and_rowMask (.sneReg x y n), ?seImm, ?sneImm, ?seReg, ?sneReg⟩
  case seImm | seReg => exact congrArg Host.Outcome.next (s.skipWhen_advance_iff beq_iff_eq)
  case sneImm | sneReg => exact congrArg Host.Outcome.next (s.skipWhen_advance_iff bne_iff_ne)

end Sys2Proof.Machine

/-! ## Registers and ALU (R130 to R143): loads, copies, the flagged arithmetic, the shifts and the random byte -/

namespace Sys2Proof.Machine

/-! ### Byte arithmetic as arithmetic on numbers (R130) -/

section ByteArithmetic

variable (a b : Byte)

theorem byte_add_eq_ofNat : a + b = BitVec.ofNat 8 ((a.toNat + b.toNat) % 256) :=
  BitVec.eq_of_toNat_eq (by simp)

theorem byte_sub_eq_ofNat : a - b = BitVec.ofNat 8 ((256 + a.toNat - b.toNat) % 256) := by
  apply BitVec.eq_of_toNat_eq
  have hb := b.isLt
  rw [BitVec.toNat_sub, BitVec.toNat_ofNat]
  omega

theorem carry_eq_ite : carry a b = if a.toNat + b.toNat ≥ 256 then 1 else 0 := by
  simp [carry, bool2u8]

theorem noBorrow_eq_ite : noBorrow a b = if a.toNat ≥ b.toNat then 1 else 0 := by
  simp [noBorrow, bool2u8]

theorem byte_shiftRight_one_toNat : (a >>> 1).toNat = a.toNat / 2 := by
  rw [BitVec.toNat_ushiftRight, Nat.shiftRight_eq_div_pow, pow_one]

theorem byte_shiftLeft_one_toNat : (a <<< 1).toNat = a.toNat * 2 % 256 := by
  rw [BitVec.toNat_shiftLeft, Nat.shiftLeft_eq, pow_one]

theorem lsb_toNat : (lsb a).toNat = a.toNat % 2 := by
  rw [lsb, BitVec.toNat_and]
  exact Nat.and_one_is_mod _

theorem msb_toNat : (msb a).toNat = a.toNat / 128 := by
  have ha := a.isLt
  have hmod : (msb a).toNat = a.toNat / 2 ^ 7 % 2 := by
    rw [← Nat.shiftRight_eq_div_pow, ← BitVec.toNat_ushiftRight]
    exact lsb_toNat (a >>> 7)
  omega

/-- The last step of SHR shifts the flag itself out where X is VF (R140). -/
theorem lsb_shiftRight_one : lsb a >>> 1 = 0 := by
  apply BitVec.eq_of_toNat_eq
  rw [byte_shiftRight_one_toNat, lsb_toNat]
  exact Nat.div_eq_of_lt (Nat.mod_lt _ (by decide))

/-- The last step of SHL moves the flag from bit 0 to bit 1 where X is VF (R142). -/
theorem msb_shiftLeft_one_toNat : (msb a <<< 1).toNat = if 128 ≤ a.toNat then 2 else 0 := by
  have ha := a.isLt
  rw [byte_shiftLeft_one_toNat, msb_toNat]
  split <;> omega

end ByteArithmetic

/-! ### The instructions that write X alone (R132 to R134, R143) -/

/-- Settles O17: one register write after the advance. -/
theorem loadImmediateSetsTheRegister : Obligations.LoadImmediateSetsTheRegister :=
  fun x nn s => ⟨encode_and_rowMask (.ldImm x nn), _, rfl, fun r => s.advance.reg_setReg x r nn, rfl⟩

/-- Settles O18: one register write after the advance, of the sum that wraps. -/
theorem addImmediateWrapsWithoutFlag : Obligations.AddImmediateWrapsWithoutFlag := by
  intro x nn s
  refine ⟨encode_and_rowMask (.addImm x nn), _, rfl, ?sum, fun r hr => s.advance.reg_setReg_ne _ hr, rfl⟩
  case sum => rw [State.reg_setReg_same, BitVec.toNat_add]

/-- Settles O19: one register write after the advance, of the register Y. -/
theorem copyRegisterCopies : Obligations.CopyRegisterCopies :=
  fun x y s => ⟨encode_and_rowMask (.ldReg x y), _, rfl, fun r => s.advance.reg_setReg x r (s.reg y), rfl⟩

/-- Settles O26: the byte drawn is the next free one (entry 5), of which nothing is known. -/
theorem randomIsMasked : Obligations.RandomIsMasked :=
  fun x nn s => ⟨encode_and_rowMask (.rnd x nn), _, Config.randomByte s.draws, rfl, s.advance.reg_setReg_same x _,
    fun _ hr => s.advance.reg_setReg_ne _ hr, rfl⟩

/-! ### The logic instructions (R135 to R137) -/

/-- What a logic instruction leaves when each bit of its result comes from the same bit of X and Y. -/
theorem State.logic_bitwise (s : State) {f : Byte → Byte → Byte} {op : Bool → Bool → Bool}
    (hbit : ∀ a b k, (f a b).getLsbD k = op (a.getLsbD k) (b.getLsbD k)) (x y : Nat) :
    (s.params.logicVfReset = true → (s.logic f x y).reg 15 = 0) ∧
    (∀ k, s.params.logicVfReset = false ∨ x ≠ 15 →
      ((s.logic f x y).reg x).getLsbD k = op ((s.reg x).getLsbD k) ((s.reg y).getLsbD k)) ∧
    (∀ r, r ≠ x → s.params.logicVfReset = false ∨ r ≠ 15 → (s.logic f x y).reg r = s.reg r) ∧
    s.logic f x y = s.withV (s.logic f x y).v := by
  obtain ⟨cleared, result, kept, onlyRegs⟩ := s.logic_spec f x y
  exact ⟨cleared, fun k h => (congrArg (BitVec.getLsbD · k) (result h)).trans (hbit _ _ k), kept, onlyRegs⟩

/-- Settles O20: the three words' operations on bytes are `or`, `and` and `xor` on each bit. -/
theorem logicOpsWorkBitwise : Obligations.LogicOpsWorkBitwise := by
  rintro i op fixed x y s (⟨rfl, rfl, rfl⟩ | ⟨rfl, rfl, rfl⟩ | ⟨rfl, rfl, rfl⟩)
  · exact ⟨encode_and_rowMask (.orReg x y), _, rfl, s.advance.logic_bitwise (fun _ _ _ => BitVec.getLsbD_or) x y⟩
  · exact ⟨encode_and_rowMask (.andReg x y), _, rfl, s.advance.logic_bitwise (fun _ _ _ => BitVec.getLsbD_and) x y⟩
  · exact ⟨encode_and_rowMask (.xorReg x y), _, rfl, s.advance.logic_bitwise (fun _ _ _ => BitVec.getLsbD_xor) x y⟩

/-! ### The flagged arithmetic (R131, R138, R139, R141) -/

/-- A flagged instruction leaves what R131's table says, in each of the three orders. -/
theorem State.arith_table (s : State) (f g : Byte → Byte → Byte) (x y : Nat) :
    flaggedTable s (s.arith f g x y) f g x y := by
  unfold flaggedTable State.arith
  cases s.params.vfAliasOrder
  case flagLast =>
    exact ⟨State.reg_setReg_same _ _ _,
      fun hx => (State.reg_setReg_ne _ _ hx).trans (State.reg_setReg_same _ _ _)⟩
  case resultLast =>
    exact ⟨State.reg_setReg_same _ _ _,
      fun hx => (State.reg_setReg_ne _ _ hx.symm).trans (State.reg_setReg_same _ _ _)⟩
  case flagFirstReread =>
    refine ⟨fun hx => (State.reg_setReg_ne _ _ hx.symm).trans (State.reg_setReg_same _ _ _), ?_⟩
    -- the table's operands are X and Y as the write of the flag left them
    rw [← s.reg_setReg, ← s.reg_setReg]
    exact State.reg_setReg_same _ _ _

/-- All that a flagged instruction leaves, its result and its flag given by any functions equal to the model's. -/
theorem State.arith_spec (s : State) {f g f' g' : Byte → Byte → Byte} (hf : ∀ a b, f a b = f' a b)
    (hg : ∀ a b, g a b = g' a b) (x y : Nat) :
    flaggedTable s (s.arith f g x y) f' g' x y ∧
    (∀ r, r ≠ x → r ≠ 15 → (s.arith f g x y).reg r = s.reg r) ∧
    s.arith f g x y = s.withV (s.arith f g x y).v := by
  obtain rfl : f = f' := funext₂ hf
  obtain rfl : g = g' := funext₂ hg
  exact ⟨s.arith_table f g x y, fun _ hx hvf => s.arith_other f g x y hx hvf, s.arith_eq f g x y⟩

/-- Settles O21: the sum and the carry, by the table of R131. -/
theorem addSetsCarry : Obligations.AddSetsCarry :=
  fun x y s => ⟨encode_and_rowMask (.addReg x y), _, rfl, s.advance.arith_spec byte_add_eq_ofNat carry_eq_ite x y⟩

/-- Settles O22: the difference and the no-borrow flag, by the table of R131. -/
theorem subSetsNoBorrow : Obligations.SubSetsNoBorrow :=
  fun x y s => ⟨encode_and_rowMask (.subReg x y), _, rfl, s.advance.arith_spec byte_sub_eq_ofNat noBorrow_eq_ite x y⟩

/-- Settles O23: as for SUB, with the operands the other way round. -/
theorem subnSetsNoBorrow : Obligations.SubnSetsNoBorrow :=
  fun x y s => ⟨encode_and_rowMask (.subnReg x y), _, rfl,
    s.advance.arith_spec (fun a b => byte_sub_eq_ofNat b a) (fun a b => noBorrow_eq_ite b a) x y⟩

/-! ### The shifts (R140, R142) -/

/-- Settles O24: VF is bit 0 of Y, and the last step shifts it out where X is VF. -/
theorem shiftRightGoesThroughVy : Obligations.ShiftRightGoesThroughVy := by
  intro x y s
  obtain ⟨apart, aliased, kept, onlyRegs⟩ := s.advance.shift_spec lsb (fun a => a >>> 1) x y
  refine ⟨encode_and_rowMask (.shr x y), _, rfl, fun hx => ?_, fun hx => ?_, kept, onlyRegs⟩
  · obtain ⟨result, flag⟩ := apart hx
    exact ⟨(congrArg BitVec.toNat result).trans (byte_shiftRight_one_toNat _),
      (congrArg BitVec.toNat flag).trans (lsb_toNat _)⟩
  · exact (aliased hx).trans (lsb_shiftRight_one _)

/-- Settles O25: VF is bit 7 of Y, and the last step moves it to bit 1 where X is VF. -/
theorem shiftLeftGoesThroughVy : Obligations.ShiftLeftGoesThroughVy := by
  intro x y s
  obtain ⟨apart, aliased, kept, onlyRegs⟩ := s.advance.shift_spec msb (fun a => a <<< 1) x y
  refine ⟨encode_and_rowMask (.shl x y), _, rfl, fun hx => ?_, fun hx => ?_, kept, onlyRegs⟩
  · obtain ⟨result, flag⟩ := apart hx
    exact ⟨(congrArg BitVec.toNat result).trans (byte_shiftLeft_one_toNat _),
      (congrArg BitVec.toNat flag).trans (msb_toNat _)⟩
  · exact (congrArg BitVec.toNat (aliased hx)).trans (msb_shiftLeft_one_toNat _)

end Sys2Proof.Machine

/-! ## The address register and memory (R160 to R165): the instructions that set I, the BCD store, the block store and load -/

namespace Sys2Proof.Machine

/-! ### I (R160 to R162) -/

/-- Settles O27: each instruction replaces I in the advanced state. -/
theorem indexInstructionsSetI : Obligations.IndexInstructionsSetI :=
  fun nnn x _ => ⟨encode_and_rowMask (.ldI nnn), encode_and_rowMask (.addIVx x), encode_and_rowMask (.ldFVx x),
    ⟨_, rfl, rfl, rfl⟩, ⟨_, rfl, rfl, rfl⟩, ⟨_, rfl, rfl, rfl⟩⟩

/-! ### The decimal digits (R163) -/

section Digits

variable (b : Byte)

theorem hundreds_toNat : (hundreds b).toNat = b.toNat / 100 := by
  have hb := b.isLt
  rw [hundreds, BitVec.toNat_ofNat]
  omega

theorem tens_toNat : (tens b).toNat = b.toNat / 10 % 10 := by
  rw [tens, BitVec.toNat_ofNat]
  omega

theorem units_toNat : (units b).toNat = b.toNat % 10 := by
  rw [units, BitVec.toNat_ofNat]
  omega

end Digits

section Bcd

variable {s : State} (hm : s.mem.wf s.params = true)
include hm

/-- A byte after a write of one byte. -/
theorem State.byteAt_writeByte (a c : Nat) (b : Byte) :
    (s.writeByte a b).byteAt c = if c = a then b else s.byteAt c :=
  (readCell_writeCell hm a c b).trans (if_congr eq_comm rfl rfl)

variable (hpos : 0 < s.params.memSize)
include hpos

/-- A write at a reduced address keeps the canonical form. -/
theorem State.writeByte_reduced_wf (k : Nat) (b : Byte) :
    (s.writeByte (s.reduced k) b).mem.wf (s.writeByte (s.reduced k) b).params = true :=
  writeCell_wf _ b hm (reduce_inBounds hpos _)

/-- A byte after the three writes of FX33: the last write to its address wins. -/
theorem State.byteAt_storeBcd (b : Byte) (a : Nat) :
    (s.storeBcd b).byteAt a =
      if a = s.reduced 2 then units b
      else if a = s.reduced 1 then tens b
      else if a = s.reduced 0 then hundreds b
      else s.byteAt a := by
  have hm₁ := State.writeByte_reduced_wf hm hpos 0 (hundreds b)
  have hm₂ := State.writeByte_reduced_wf hm₁ hpos 1 (tens b)
  calc (s.storeBcd b).byteAt a
      = if a = s.reduced 2 then units b
        else ((s.writeByte (s.reduced 0) (hundreds b)).writeByte (s.reduced 1) (tens b)).byteAt a :=
          State.byteAt_writeByte hm₂ _ a _
    _ = _ := by rw [State.byteAt_writeByte hm₁, State.byteAt_writeByte hm]

end Bcd

/-- Settles O28: the three writes in their order, each digit read as a number. -/
theorem bcdStoresThreeDigits : Obligations.BcdStoresThreeDigits := by
  intro x s hm hpos
  refine ⟨fun _ => rfl, encode_and_rowMask (.ldBVx x), _, rfl, fun a => ?digits, rfl⟩
  case digits =>
    rw [State.byteAt_storeBcd (s := s.advance) hm hpos, ← units_toNat, ← tens_toNat, ← hundreds_toNat]
    simp only [apply_ite BitVec.toNat]
    rfl

/-! ### The blocks of FX55 and FX65 (R164, R165) -/

/-- A byte inside the block that FX55 writes is the register that its place in the block names. -/
theorem State.byteAt_writeBlock_lowRegs {s : State} (hm : s.mem.wf s.params = true) {x : Reg}
    (hfit : s.i + x.val < s.params.memSize) {r : Nat} (hr : r ≤ x.val) :
    (s.writeBlock s.i (s.lowRegs x)).byteAt (s.i + r) = s.reg r := by
  have hlen := s.length_lowRegs x
  exact (readCell_writeBytes_inside (s.lowRegs x) hm (by omega) (by omega)).trans (s.lowRegs_getElem x r _)

/-- Settles O29: inside the block each byte is a register's, outside it nothing is written. -/
theorem storeBlockStoresTheRegisters : Obligations.StoreBlockStoresTheRegisters := by
  intro x s hm hfit
  refine ⟨(s.advance.writeBlock s.i (s.lowRegs x)).withI (s.stepI x).i, ?_,
    fun r hr => State.byteAt_writeBlock_lowRegs (s := s.advance) hm hfit hr,
    fun a ha => readCell_writeBytes_outside _ _ (by rw [s.length_lowRegs]; omega), s.stepI_i x, rfl⟩
  exact (execLdMemVx_fits s x hfit).trans (congrArg Host.Outcome.next (State.stepI_of_eq x rfl rfl))

/-- Settles O30: the registers after the loads, and I as the state before them tells. -/
theorem loadBlockLoadsTheRegisters : Obligations.LoadBlockLoadsTheRegisters := by
  intro x s hfit
  refine ⟨(s.advance.withV (s.loadedRegs x)).withI (s.stepI x).i, ?_, s.reg_loadedRegs x, s.stepI_i x, rfl⟩
  exact (execLdVxMem_fits s x hfit).trans (congrArg Host.Outcome.next (State.stepI_of_eq x rfl rfl))

/-- Settles O31: the load reads the bytes at the addresses that the store wrote, and a register file or an I set in between
moves no byte. -/
theorem loadBlockReadsBackTheStore : Obligations.LoadBlockReadsBackTheStore := by
  intro x s t v hm hfit hstore
  obtain ⟨t', ht', stored, -, -, frame⟩ := storeBlockStoresTheRegisters x s hm hfit
  cases ht'.symm.trans hstore
  have hparams : t.params = s.params := (congrArg State.params frame :)
  obtain ⟨u, hu, loaded, -, -⟩ := loadBlockLoadsTheRegisters x { t with i := s.i, v := v } (hparams ▸ hfit)
  refine ⟨u, hu, fun r => (loaded r).trans ?_⟩
  split
  · next hr => exact stored r hr
  · rfl

end Sys2Proof.Machine

/-! ## The display (R180 to R185): CLS, what one draw does, and two identical draws in a row -/

namespace Sys2Proof.Machine

/-- Settles O33: the blank display replaces the display of the advanced state. -/
theorem clearTurnsEveryPixelOff : Obligations.ClearTurnsEveryPixelOff :=
  fun x _ => ⟨encode_and_rowMask (.cls x), _, rfl, pixelAt_blankFrame, rfl⟩

/-! ### One draw (R182 to R184) -/

theorem bool2u8_eq_zero_or_one (b : Bool) : bool2u8 b = 0 ∨ bool2u8 b = 1 := by
  cases b <;> decide

theorem bool2u8_eq_one_iff (b : Bool) : bool2u8 b = 1 ↔ b = true := by
  cases b <;> decide

section Draw

variable (s : State) (x y n : Nat)

@[simp] theorem State.length_spriteBytes : (s.spriteBytes n).length = n := by
  simp [State.spriteBytes]

/-- Byte `j` of a sprite is the one at Reduce(I + j) (R183). -/
theorem State.spriteBytes_getD {n j : Nat} (hj : j < n) : (s.spriteBytes n).getD j 0 = s.byteAt (s.reduced j) := by
  simp [State.spriteBytes, hj]

/-- The rows that DXYN blits from its start cover the pixels that its source bits fall on. -/
theorem rowsCover_spriteBytes (r c : Nat) :
    rowsCover ((s.reg x).toNat % s.params.dispW) r c ((s.reg y).toNat % s.params.dispH) (s.spriteBytes n) =
      spriteCovers s x y n r c := by
  rw [rowsCover_eq, s.length_spriteBytes, spriteCovers, Bool.eq_iff_iff]
  simp only [Bool.and_eq_true, decide_eq_true_eq]
  refine and_congr_right fun ⟨_, hlast, _⟩ => ?_
  rw [s.spriteBytes_getD (by omega)]

/-- What DXYN blits: the framebuffer after, and whether a source bit hit (R183). -/
def State.drawn : Frame × Bool := drawSprite s.params s.fb (s.reg y) (s.reg x) (s.spriteBytes n)

/-- A draw inverts exactly the covered pixels of the grid (R182). -/
theorem State.pixelAt_drawn (r c : Nat) :
    pixelAt (s.drawn x y n).1 r c = xor (pixelAt s.fb r c) (inGrid s.params r c && spriteCovers s x y n r c) := by
  rw [State.drawn, drawSprite, pixelAt_blitRows, rowsCover_spriteBytes]

/-- A draw hits exactly where a covered pixel of the grid was on before it (R184). -/
theorem State.drawn_hit :
    (s.drawn x y n).2 = true ↔ ∃ r c, r < s.params.dispH ∧ c < s.params.dispW ∧ spriteCovers s x y n r c = true ∧
      pixelAt s.fb r c = true := by
  rw [State.drawn, drawSprite, blitRows_hit]
  simp only [rowsCover_spriteBytes, inGrid, decide_eq_true_eq, Bool.false_eq_true, false_or, and_assoc]

end Draw

/-- DXYN replaces the display of the advanced state and writes VF last (R183). -/
theorem exec_drw (x y : Reg) (n : Nat) (s : State) :
    exec (.drw x y n) s =
      .next ((s.advance.withFb (s.drawn x y n).1).setReg regF (bool2u8 (s.drawn x y n).2)) := rfl

/-- Settles O34: the display is the blitter's, and VF, written last, tells its hit. -/
theorem drawInvertsTheCoveredPixels : Obligations.DrawInvertsTheCoveredPixels := by
  intro x y n s
  have hvf : ((s.advance.withFb (s.drawn x y n).1).setReg regF (bool2u8 (s.drawn x y n).2)).reg 15 =
      bool2u8 (s.drawn x y n).2 := State.reg_setReg_same _ regF _
  refine ⟨encode_and_rowMask (.drw x y n), _, exec_drw x y n s, fun r c hr hc => ?inverted, ?flag, ?collision,
    fun r hr => State.reg_setReg_ne _ _ hr, rfl⟩
  case inverted =>
    have hin : inGrid s.params r c = true := decide_eq_true ⟨hr, hc⟩
    exact (s.pixelAt_drawn x y n r c).trans (by rw [hin, Bool.true_and])
  case flag => rw [hvf]; exact bool2u8_eq_zero_or_one _
  case collision => rw [hvf, bool2u8_eq_one_iff]; exact s.drawn_hit x y n

/-! ### Two identical draws (R185) -/

/-- A draw keeps the display's size. -/
theorem shaped_of_exec_drw {x y : Reg} {n : Nat} {s t : State} (hs : s.fb.shaped s.params = true)
    (h : exec (.drw x y n) s = .next t) : t.fb.shaped s.params = true := by
  cases h
  exact shaped_drawSprite _ _ _ hs

/-- The pixels that a sprite covers depend on its coordinates and its bytes, not on the display, PC or other registers. -/
theorem spriteCovers_congr {s t : State} {x y : Nat} {pc : Nat} {v : List Byte} {fb : Frame}
    (h : t = { s with pc := pc, v := v, fb := fb }) (hx : t.reg x = s.reg x) (hy : t.reg y = s.reg y) (n r c : Nat) :
    spriteCovers t x y n r c = spriteCovers s x y n r c := by
  unfold spriteCovers
  rw [hx, hy, h]
  rfl

/-- Settles O35: the second draw covers the pixels that the first covered, so each is inverted twice; it finds on those
that the first found off. -/
theorem drawingTwiceRestoresTheDisplay : Obligations.DrawingTwiceRestoresTheDisplay := by
  intro x y n s t hfb hdraw hx hy
  obtain ⟨-, t', ht', inverted, flag, collision, -, frame⟩ := drawInvertsTheCoveredPixels x y n s
  cases ht'.symm.trans hdraw
  obtain ⟨-, u, hu, inverted', -, collision', -, -⟩ := drawInvertsTheCoveredPixels x y n t
  have hparams : t.params = s.params := (congrArg State.params frame :)
  have hcovers : ∀ r c, spriteCovers t x y n r c = spriteCovers s x y n r c := spriteCovers_congr frame hx hy n
  have hfb_t : t.fb.shaped s.params = true := shaped_of_exec_drw hfb hdraw
  have hfb_u : u.fb.shaped s.params = true := hparams ▸ shaped_of_exec_drw (hparams ▸ hfb_t) hu
  rw [hparams] at inverted' collision'
  refine ⟨⟨u, hu, Frame.ext_pixelAt hfb_u hfb fun r c => ?restored, collision'.trans ?second⟩, fun blank => ?first⟩
  case restored =>
    by_cases hin : r < s.params.dispH ∧ c < s.params.dispW
    · rw [inverted' r c hin.1 hin.2, inverted r c hin.1 hin.2, hcovers, Bool.xor_assoc, Bool.xor_self, Bool.xor_false]
    · rw [pixelAt_outside hfb_u hin, pixelAt_outside hfb hin]
  case second =>
    refine exists₂_congr fun r c => and_congr_right fun hr => and_congr_right fun hc => ?_
    rw [hcovers, inverted r c hr hc]
    exact and_congr_right fun hcov => by rw [hcov, Bool.xor_true, Bool.not_eq_true']
  case first =>
    refine flag.resolve_right fun hvf => ?_
    obtain ⟨r, c, -, -, -, hon⟩ := collision.1 hvf
    exact Bool.false_ne_true ((blank r c).symm.trans hon)

/-- The reset state with pixels 0 to 3 of row 0 on: those that the font's first byte, 0xF0 at I = 0, covers. -/
def topRowOn : State :=
  State.reset.withFb ([0, 1, 2, 3].foldl (fun fb c => setPixel fb 0 c true) State.reset.fb)

/-- Refutes O36: on `topRowOn` the first draw of the font's first byte turns the four covered pixels off, so the second
finds none on and leaves VF 0, although its source bits fall inside the display. -/
theorem not_secondDrawCollidesWheneverTheSpriteIsVisible :
    ¬ Obligations.SecondDrawCollidesWheneverTheSpriteIsVisible := by
  intro h
  have hcollides := (h 0 0 1 topRowOn _ _ rfl (by decide) (by decide) rfl).2 ⟨0, 0, by decide, by decide, by decide⟩
  exact absurd hcollides (by decide)

end Sys2Proof.Machine

/-! ## Timers and input (R201 to R203, R206 to R208): the timer loads, the key skips, and the start of the key wait -/

namespace Sys2Proof.Machine

/-! ### The timers (R201 to R203) -/

section SoundTimer

variable {s : State}

theorem State.soundValue_one : s.soundValue 1 = s.params.soundQuirk := if_pos rfl

theorem State.soundValue_of_ne_one {b : Byte} (hb : b ≠ 1) : s.soundValue b = b := if_neg hb

/-- A write to the sound timer never stores 1, since the one byte that would is replaced by the quirk's value. -/
theorem State.soundValue_ne_one (hquirk : s.params.soundQuirk ≠ 1) (b : Byte) : s.soundValue b ≠ 1 := by
  by_cases hb : b = 1
  · rwa [hb, State.soundValue_one]
  · rwa [State.soundValue_of_ne_one hb]

/-- R202: an instruction leaves ST at 1 only where it was 1, since FX18 alone writes ST and never stores 1. -/
theorem exec_st_eq_one (hquirk : s.params.soundQuirk ≠ 1) {i : Instr} {t : State} (h : exec i s = .next t)
    (ht : t.st = 1) : s.st = 1 := by
  by_cases hst : ∃ x, i = .ldStVx x
  · obtain ⟨x, rfl⟩ := hst
    cases h
    exact absurd ht (State.soundValue_ne_one hquirk (s.reg x))
  · exact ((exec_effect h).st_eq fun x hx => hst ⟨x, hx⟩).symm.trans ht

end SoundTimer

/-- Settles O37: each instruction is one update of the advanced state; the value that FX18 stores is never 1 unless the
quirk's value is. -/
theorem timerInstructionsMoveTheTimers : Obligations.TimerInstructionsMoveTheTimers := by
  intro x s
  refine ⟨encode_and_rowMask (.ldVxDt x), encode_and_rowMask (.ldDtVx x), encode_and_rowMask (.ldStVx x),
    ?ldVxDt, rfl, ?ldStVx, fun hquirk _ _ => exec_st_eq_one hquirk⟩
  case ldVxDt => exact ⟨_, rfl, fun r => s.advance.reg_setReg x r s.dt, rfl⟩
  case ldStVx =>
    exact ⟨_, rfl, fun hx => (congrArg s.soundValue hx).trans State.soundValue_one, State.soundValue_of_ne_one, rfl⟩

/-! ### The keys (R206 to R208) -/

/-- Settles O16: with a key that exists each is a skip after the advance, SKP's on the key and SKNP's on its negation. -/
theorem keySkipsReadTheLatch : Obligations.KeySkipsReadTheLatch := by
  intro x s hkey
  constructor
  case left => exact (execSkp_key s x hkey).trans (congrArg Host.Outcome.next (s.skipWhen_advance_iff Iff.rfl))
  case right =>
    refine (execSknp_key s x hkey).trans (congrArg Host.Outcome.next ?_)
    rw [s.skipWhen_advance_iff Bool.not_iff_not, ite_not]

/-- Settles O38: FX0A arms the wait in the advanced state. -/
theorem waitInstructionArmsTheLatch : Obligations.WaitInstructionArmsTheLatch := fun _ _ => rfl

end Sys2Proof.Machine

/-! ## Exceptions (R230 to R235): which instructions halt the block and with what report, and what a Halted block keeps -/

namespace Sys2Proof.Machine

/-! ### The cause table (R231) -/

/-- Where a row of the cause table applies, the instruction takes the row's fatal error: each of the six instructions that
can raise has one test, and it is its row's condition. -/
theorem exec_eq_fatal {s : State} {i : Instr} {kind : Fault} {info : Nat} (h : fatalCause s i = some (kind, info)) :
    exec i s = .next (s.fatal kind (some (encode i)) info) := by
  cases i
  case call nnn =>
    obtain ⟨hfull, ⟨⟩⟩ := Option.ite_none_right_eq_some.1 h
    exact execCall_full s nnn hfull
  case ret x =>
    obtain ⟨hempty, ⟨⟩⟩ := Option.ite_none_right_eq_some.1 h
    exact execRet_empty s x hempty
  case ldMemVx x =>
    obtain ⟨hout, ⟨⟩⟩ := Option.ite_none_right_eq_some.1 h
    exact execLdMemVx_outside s x hout
  case ldVxMem x =>
    obtain ⟨hout, ⟨⟩⟩ := Option.ite_none_right_eq_some.1 h
    exact execLdVxMem_outside s x hout
  case skp x =>
    obtain ⟨hkey, ⟨⟩⟩ := Option.ite_none_right_eq_some.1 h
    exact execSkp_noKey s x hkey
  case sknp x =>
    obtain ⟨hkey, ⟨⟩⟩ := Option.ite_none_right_eq_some.1 h
    exact execSknp_noKey s x hkey
  all_goals cases h

/-- Where no row of the cause table applies, the instruction does not halt a block that runs and writes no report. -/
theorem Effect.not_halted {s t : State} {i : Instr} (h : Effect s i t) (hcause : fatalCause s i = none)
    (hm : s.mode ≠ .halted) : t.mode ≠ .halted ∧ t.fault = s.fault := by
  cases h with
  | fatal cause => cases hcause.symm.trans cause
  | wait => exact ⟨nofun, rfl⟩
  | _ => exact ⟨hm, rfl⟩

/-- Settles O10: a row that applies is the instruction's fatal error, and without one its effect is another. -/
theorem execHaltsExactlyByTheCauseTable : Obligations.ExecHaltsExactlyByTheCauseTable := by
  intro i s hm
  cases hcause : fatalCause s i with
  | some cause => exact ⟨_, exec_eq_fatal hcause, rfl⟩
  | none =>
    obtain ⟨t, ht, -⟩ := exec_next s i
    exact ⟨t, ht, (exec_effect ht).not_halted hcause (by simp [hm])⟩

/-! ### A Halted block (R233, R234) -/

/-- A command other than reset moves at most the answer of a Halted block: the tick is passed by, the load refused
(R94, R252). -/
theorem State.command_halted {s : State} (hm : s.mode = .halted) {c : HostCommand} (hc : c ≠ .reset) :
    ∃ answer, s.command c = s.withAnswer answer := by
  cases c with
  | reset => exact absurd rfl hc
  | load bytes => exact ⟨_, s.load_halted hm bytes⟩
  | tick keys => exact ⟨s.answer, s.beginTick_halted keys hm⟩

/-- A step of a Halted block that is not the reset command moves only the model's own fields (entries 1, 2). -/
theorem step_halted {s t : State} (h : step s = .next t) (hm : s.mode = .halted)
    (hreset : s.slot = none → ∀ rest, s.host ≠ .reset :: rest) :
    ∃ slot host answer, t = ((s.withSlot slot).withHost host).withAnswer answer := by
  obtain ⟨k, u, -, -, hrun, -, -⟩ | ⟨k, -, -, rfl⟩ | ⟨-, -, rfl⟩ | ⟨c, cs, hslot, hhost, rfl⟩ := step_cases h
  · cases hm.symm.trans hrun
  · exact ⟨none, s.host, s.answer, State.timerPhase_halted (s := s.withSlot none) hm⟩
  · exact ⟨t.slot, t.host, t.answer, rfl⟩
  · have hc : c ≠ .reset := fun hc => hreset hslot cs (hc ▸ hhost)
    obtain ⟨answer, hanswer⟩ := State.command_halted (s := s.withHost cs) hm hc
    exact ⟨s.slot, cs, answer, hanswer⟩

/-- Settles O59: what moves is the slot, the host's commands and the answer, so every piece of the block's state stays. -/
theorem faultReportIsWrittenOnce : Obligations.FaultReportIsWrittenOnce := by
  intro s t h hm hreset
  obtain ⟨slot, host, answer, rfl⟩ := step_halted h hm hreset
  exact ⟨rfl, hm, rfl, rfl, rfl, rfl, rfl, rfl, rfl, rfl, rfl, rfl, rfl, rfl, rfl, rfl, rfl⟩

end Sys2Proof.Machine

/-! ## Reset and load (R250, R252): the reset command, and what each answer of load leaves -/

namespace Sys2Proof.Machine

/-! ### Reset (R250) -/

/-- Settles O47: the step that takes the command is the reset of the block. -/
theorem resetCommandRestoresResetState : Obligations.ResetCommandRestoresResetState :=
  fun _ _ hslot hhost => step_command hslot hhost

/-! ### The three answers of load (R252) -/

section Load

variable {s : State} {bytes : List Byte}

/-- The step that takes a load command is the load (entry 2). -/
theorem step_load {rest : List HostCommand} (hslot : s.slot = none) (hhost : s.host = .load bytes :: rest) :
    step s = .next ((s.withHost rest).load bytes) :=
  step_command hslot hhost

theorem State.load_refused (h : s.mode = .halted ∨ s.loaded = true) :
    s.load bytes = s.withAnswer (some .refused) := by
  have hanswer : s.loadAnswer bytes = .refused := if_pos h
  simp only [State.load, hanswer]

variable (hlive : s.mode ≠ .halted) (hfirst : s.loaded = false)
include hlive hfirst

/-- A block that is neither Halted nor loaded answers by the length of the program alone. -/
theorem State.loadAnswer_of_live :
    s.loadAnswer bytes = if s.params.progMax < bytes.length then .programTooLarge else .ok :=
  if_neg (by simp [hlive, hfirst])

theorem State.load_programTooLarge (hlong : s.params.progMax < bytes.length) :
    s.load bytes = s.withAnswer (some .programTooLarge) := by
  have hanswer : s.loadAnswer bytes = .programTooLarge := (State.loadAnswer_of_live hlive hfirst).trans (if_pos hlong)
  simp only [State.load, hanswer]

theorem State.load_ok (hfit : bytes.length ≤ s.params.progMax) :
    s.load bytes = ((s.writeBlock s.params.progBase bytes).withLoaded true).withAnswer (some .ok) := by
  have hanswer : s.loadAnswer bytes = .ok := (State.loadAnswer_of_live hlive hfirst).trans (if_neg hfit.not_gt)
  simp only [State.load, hanswer]

end Load

/-- A byte of a program that fits (a non-empty one fits only where PROG_BASE is inside memory) is where load writes it. -/
theorem State.byteAt_writeBlock_progBase {s : State} {bytes : List Byte} {k : Nat} (hm : s.mem.wf s.params = true)
    (hfit : bytes.length ≤ s.params.progMax) (hk : k < bytes.length) :
    (s.writeBlock s.params.progBase bytes).byteAt (s.params.progBase + k) = bytes[k] := by
  have hend : s.params.progBase + bytes.length ≤ s.params.memSize := by
    unfold Config.Params.progMax at hfit
    omega
  exact readCell_writeBytes_inside bytes hm hk hend

/-- Settles O48: the step is the load, one lemma for each answer; an Ok load is one block write at PROG_BASE. -/
theorem loadAnswersAndCopies : Obligations.LoadAnswersAndCopies := by
  intro s bytes rest hslot hhost hm
  refine ⟨_, step_load hslot hhost, fun hrefuse => ?refused, fun hlive hfirst hlong => ?tooLarge,
    fun hlive hfirst hfit => ?ok⟩
  case refused => exact State.load_refused (s := s.withHost rest) hrefuse
  case tooLarge => exact State.load_programTooLarge (s := s.withHost rest) hlive hfirst hlong
  case ok =>
    rw [State.load_ok (s := s.withHost rest) hlive hfirst hfit]
    exact ⟨fun k hk => State.byteAt_writeBlock_progBase (s := s) hm hfit hk,
      fun a ha => readCell_writeBytes_outside bytes s.mem ha, rfl⟩

end Sys2Proof.Machine
